-- ==== Sys2Proof/Word.lean ====
section
/-! DEFINITION. The two word types of the block: a byte (general register, RAM byte, output byte) and a
16-bit word (pair, address, program counter, stack entry, BSE command word). Rules R5, R6. -/

namespace Sys2Proof

/-- An 8-bit value (`XLEN8`, rule R5): a general register, a byte of RAM, of the program store or of `OUT`. -/
abbrev Byte := BitVec 8

/-- A 16-bit value: a register pair, a RAM or program-store address, a stack entry, a BSE command word. -/
abbrev Word := BitVec 16

end Sys2Proof
end

