-- ==== Sys2Proof/Syntax.lean ====
section
/-! DEFINITION. The instruction set: 36 MCU instructions and 5 BSE commands, one constructor for each row of
spec/opcode_table.json (rules R101, R111), and the operand kinds they take (rules R92 to R94, R99). -/

namespace Sys2Proof

/-- An 8-bit general register, `R0` to `R7` (rules R20, R92). -/
inductive Reg where
  | r0 | r1 | r2 | r3 | r4 | r5 | r6 | r7
deriving DecidableEq, Repr

/-- A 16-bit register pair, `W0` to `W3` (rules R21, R93). -/
inductive Pair where
  | w0 | w1 | w2 | w3
deriving DecidableEq, Repr

/-- A condition code (rule R99). -/
inductive Cond where
  /-- `NZ`: true when `Z = 0`. -/
  | nz
  /-- `Z`: true when `Z = 1`. -/
  | z
  /-- `NC`: true when `C = 0`. -/
  | nc
  /-- `C`: true when `C = 1`. -/
  | c
  /-- `PO`: true when `PV = 0`. -/
  | po
  /-- `PE`: true when `PV = 1`. -/
  | pe
  /-- `P`: true when `S = 0`. -/
  | p
  /-- `M`: true when `S = 1`. -/
  | m
deriving DecidableEq, Repr

/-- An instruction of the MCU or a command of the BSE. -/
inductive Instr where
  -- 47_mcu_control.md
  /-- `NOP` (rule R216). -/
  | nop
  /-- `HALT` (rule R217). -/
  | halt
  /-- `ERR` (rule R218). -/
  | err
  /-- `RET` (rule R214). -/
  | ret
  /-- `JP nn` (rule R210). -/
  | jp (nn : Word)
  /-- `CALL nn` (rule R212). -/
  | call (nn : Word)
  -- 43_mcu_rotate_shift_bit.md
  /-- `BIT b,Rr` (rule R174). -/
  | bit (b : BitVec 3) (r : Reg)
  /-- `RES b,Rr` (rule R175). -/
  | res (b : BitVec 3) (r : Reg)
  -- 46_mcu_stack_exchange.md
  /-- `XCHB Ra,Rb` (rule R204). -/
  | xchb (ra rb : Reg)
  -- 47_mcu_control.md
  /-- `JP cc,nn` (rule R211). -/
  | jpCc (cc : Cond) (nn : Word)
  /-- `CALL cc,nn` (rule R213). -/
  | callCc (cc : Cond) (nn : Word)
  /-- `RET cc` (rule R215). -/
  | retCc (cc : Cond)
  -- 41_mcu_load_move.md
  /-- `LD Rd,#n` (rule R151). -/
  | ldRN (rd : Reg) (n : Byte)
  /-- `LD Wp,#nn` (rule R152). -/
  | ldWNN (wp : Pair) (nn : Word)
  /-- `LD Rd,(Wp)` (rule R153). -/
  | ldRMem (rd : Reg) (wp : Pair)
  /-- `LD (Wp),Rs` (rule R154). -/
  | ldMemR (wp : Pair) (rs : Reg)
  -- 42_mcu_inc_dec.md
  /-- `INC Rr` (rule R160). -/
  | inc (r : Reg)
  /-- `DEC Rr` (rule R161). -/
  | dec (r : Reg)
  -- 41_mcu_load_move.md
  /-- `LD Rd,Rs` (rule R150). -/
  | ldRR (rd rs : Reg)
  -- 43_mcu_rotate_shift_bit.md
  /-- `RL Rr` (rule R170). -/
  | rl (r : Reg)
  /-- `RR Rr` (rule R171). -/
  | rr (r : Reg)
  /-- `SHL Rr` (rule R172). -/
  | shl (r : Reg)
  /-- `SHR Rr` (rule R173). -/
  | shr (r : Reg)
  -- 42_mcu_inc_dec.md
  /-- `INCW Wp` (rule R162). -/
  | incw (wp : Pair)
  /-- `DECW Wp` (rule R163). -/
  | decw (wp : Pair)
  -- 46_mcu_stack_exchange.md
  /-- `PUSH Wp` (rule R200). -/
  | push (wp : Pair)
  /-- `POP Wp` (rule R201). -/
  | pop (wp : Pair)
  /-- `XTS Wp` (rule R202). -/
  | xts (wp : Pair)
  -- 45_mcu_block_copy.md
  /-- `BCI` (rule R191). -/
  | bci
  /-- `BCD` (rule R192). -/
  | bcd
  /-- `BCIR` (rule R193). -/
  | bcir
  /-- `BCDR` (rule R194). -/
  | bcdr
  -- 44_mcu_pair_arith.md
  /-- `ADDW Wd,Ws` (rule R180). -/
  | addw (wd ws : Pair)
  /-- `ADCW Wd,Ws` (rule R181). -/
  | adcw (wd ws : Pair)
  /-- `SBCW Wd,Ws` (rule R182). -/
  | sbcw (wd ws : Pair)
  -- 46_mcu_stack_exchange.md
  /-- `XCHW Wa,Wb` (rule R203). -/
  | xchw (wa wb : Pair)
  -- 40_bse_commands.md
  /-- `BSINIT` (rule R130). -/
  | bsinit
  /-- `PUTBIT b` (rule R132). -/
  | putbit (b : Bool)
  /-- `PUTBITS n,v` (rule R133): `n` is word bits 11:8 and `v` the whole data field, bits 7:0. -/
  | putbits (n : BitVec 4) (v : Byte)
  /-- `PUTBYTE v` (rule R135). -/
  | putbyte (v : Byte)
  /-- `FLUSH` (rule R134). -/
  | flush
deriving DecidableEq, Repr

end Sys2Proof
end

