-- ==== Sys2Proof/WellFormed.lean ====
section
/-! DEFINITION. Which instructions the encodings admit. Every operand type holds exactly the values its field
admits (rules R92 to R94, R99, R100), but for the count of `PUTBITS`, a 4-bit field of which only 1 to 8 are
legal (rule R111). -/

namespace Sys2Proof

/-- The count of `PUTBITS` is 1 to 8 (rules R111, R112). -/
def putbitsCountOk (n : BitVec 4) : Bool :=
  decide (1 ≤ n.toNat) && decide (n.toNat ≤ 8)

/-- Well-formedness of an instruction. -/
def Instr.wf : Instr → Bool
  | .nop | .halt | .err | .ret | .jp _ | .call _ => true
  | .bit _ _ | .res _ _ | .xchb _ _ => true
  | .jpCc _ _ | .callCc _ _ | .retCc _ => true
  | .ldRN _ _ | .ldWNN _ _ | .ldRMem _ _ | .ldMemR _ _ | .ldRR _ _ => true
  | .inc _ | .dec _ | .incw _ | .decw _ => true
  | .rl _ | .rr _ | .shl _ | .shr _ => true
  | .push _ | .pop _ | .xts _ | .xchw _ _ => true
  | .bci | .bcd | .bcir | .bcdr => true
  | .addw _ _ | .adcw _ _ | .sbcw _ _ => true
  | .bsinit | .putbit _ | .putbyte _ | .flush => true
  | .putbits n _ => putbitsCountOk n

/-- The unit that executes an instruction (rule R2): `true` for the BSE, `false` for the MCU. -/
def Instr.isBse : Instr → Bool
  | .bsinit | .putbit _ | .putbits _ _ | .putbyte _ | .flush => true
  | .nop | .halt | .err | .ret | .jp _ | .call _ => false
  | .bit _ _ | .res _ _ | .xchb _ _ => false
  | .jpCc _ _ | .callCc _ _ | .retCc _ => false
  | .ldRN _ _ | .ldWNN _ _ | .ldRMem _ _ | .ldMemR _ _ | .ldRR _ _ => false
  | .inc _ | .dec _ | .incw _ | .decw _ => false
  | .rl _ | .rr _ | .shl _ | .shr _ => false
  | .push _ | .pop _ | .xts _ | .xchw _ _ => false
  | .bci | .bcd | .bcir | .bcdr => false
  | .addw _ _ | .adcw _ _ | .sbcw _ _ => false

/-- An MCU instruction of rule R91. -/
abbrev Instr.isMcu (i : Instr) : Bool := !i.isBse

/-- The size in bytes of an instruction's encoding: 1, 2 or 3 for the MCU (rule R91), 2 for a command word
(rule R113). -/
def Instr.size : Instr → Nat
  | .nop | .halt | .err | .ret => 1
  | .jp _ | .call _ | .jpCc _ _ | .callCc _ _ | .ldWNN _ _ => 3
  | .bit _ _ | .res _ _ | .xchb _ _ | .ldRN _ _ | .ldRMem _ _ | .ldMemR _ _ => 2
  | .retCc _ | .ldRR _ _ => 1
  | .inc _ | .dec _ | .incw _ | .decw _ => 1
  | .rl _ | .rr _ | .shl _ | .shr _ => 1
  | .push _ | .pop _ | .xts _ | .xchw _ _ => 1
  | .bci | .bcd | .bcir | .bcdr => 1
  | .addw _ _ | .adcw _ _ | .sbcw _ _ => 1
  | .bsinit | .putbit _ | .putbits _ _ | .putbyte _ | .flush => 2

end Sys2Proof
end

