-- ==== Sys2Proof/Decode.lean ====
section
/-! DEFINITION. The decoder of the MCU's instruction bytes (rules R91 to R103) and of the BSE's command words
(rules R110 to R112), total on any bytes, rejecting by name; and after it the encoder. -/

namespace Sys2Proof

/-! ## Operand fields -/

/-- The register with a 3-bit number (rule R92). -/
def Reg.ofNum (f : BitVec 3) : Reg :=
  match f.getLsbD 2, f.getLsbD 1, f.getLsbD 0 with
  | false, false, false => .r0
  | false, false, true => .r1
  | false, true, false => .r2
  | false, true, true => .r3
  | true, false, false => .r4
  | true, false, true => .r5
  | true, true, false => .r6
  | true, true, true => .r7

/-- The 3-bit number of a register (rule R92). -/
def Reg.num : Reg → BitVec 3
  | .r0 => 0b000#3
  | .r1 => 0b001#3
  | .r2 => 0b010#3
  | .r3 => 0b011#3
  | .r4 => 0b100#3
  | .r5 => 0b101#3
  | .r6 => 0b110#3
  | .r7 => 0b111#3

/-- The pair with a 2-bit number (rule R93). -/
def Pair.ofNum (f : BitVec 2) : Pair :=
  match f.getLsbD 1, f.getLsbD 0 with
  | false, false => .w0
  | false, true => .w1
  | true, false => .w2
  | true, true => .w3

/-- The 2-bit number of a pair (rule R93). -/
def Pair.num : Pair → BitVec 2
  | .w0 => 0b00#2
  | .w1 => 0b01#2
  | .w2 => 0b10#2
  | .w3 => 0b11#2

/-- The condition with a 3-bit code (rule R99). -/
def Cond.ofNum (f : BitVec 3) : Cond :=
  match f.getLsbD 2, f.getLsbD 1, f.getLsbD 0 with
  | false, false, false => .nz
  | false, false, true => .z
  | false, true, false => .nc
  | false, true, true => .c
  | true, false, false => .po
  | true, false, true => .pe
  | true, true, false => .p
  | true, true, true => .m

/-- The 3-bit code of a condition (rule R99). -/
def Cond.num : Cond → BitVec 3
  | .nz => 0b000#3
  | .z => 0b001#3
  | .nc => 0b010#3
  | .c => 0b011#3
  | .po => 0b100#3
  | .pe => 0b101#3
  | .p => 0b110#3
  | .m => 0b111#3

/-- The slice of `len` bits of a byte whose lowest bit is bit `lo` (rule R6). -/
def field (b : Byte) (lo len : Nat) : BitVec len := b.extractLsb' lo len

/-- `hi ∥ lo`: the 16-bit value of two bytes (rule R6). -/
def joinBytes (hi lo : Byte) : Word := hi ++ lo

/-- Bits 15:8 of a word. -/
def highByte (w : Word) : Byte := w.extractLsb' 8 8

/-- Bits 7:0 of a word. -/
def lowByte (w : Word) : Byte := w.extractLsb' 0 8

/-! ## The MCU's opcode map -/

/-- A row of the opcode map (rule R101): how many further bytes the instruction has and what it is. -/
inductive Row where
  /-- A 1-byte instruction (formats F0, FR, FP, FRR, FPP, FC). -/
  | one (i : Instr)
  /-- A 2-byte instruction (formats FRI, FX): from byte 1, the instruction, or none where rule R95 makes the
  sub-byte illegal. -/
  | two (f : Byte → Option Instr)
  /-- A 3-byte instruction (formats FPI, FA, FCA): from `nn` = byte 2 ∥ byte 1 (rule R100). -/
  | three (f : Word → Instr)
  /-- An illegal byte 0 (rule R102). -/
  | illegal

/-- Byte 1 of `BIT` and `RES` (rule R95): `00 bbb rrr`, `01 bbb rrr`; bit 7 = 1 is illegal. -/
def subBitRes (b1 : Byte) : Option Instr :=
  if field b1 6 2 = 0b00#2 then some (.bit (field b1 3 3) (.ofNum (field b1 0 3)))
  else if field b1 6 2 = 0b01#2 then some (.res (field b1 3 3) (.ofNum (field b1 0 3)))
  else none

/-- Byte 1 of `XCHB` (rule R95): `00 aaa bbb`. -/
def subXchb (b1 : Byte) : Option Instr :=
  if field b1 6 2 = 0b00#2 then some (.xchb (.ofNum (field b1 3 3)) (.ofNum (field b1 0 3))) else none

/-- Byte 1 of `LD Rd,(Wp)` (rule R95): `000 pp rrr`. -/
def subLdRMem (b1 : Byte) : Option Instr :=
  if field b1 5 3 = 0b000#3 then some (.ldRMem (.ofNum (field b1 0 3)) (.ofNum (field b1 3 2))) else none

/-- Byte 1 of `LD (Wp),Rs` (rule R95): `000 pp rrr`. -/
def subLdMemR (b1 : Byte) : Option Instr :=
  if field b1 5 3 = 0b000#3 then some (.ldMemR (.ofNum (field b1 3 2)) (.ofNum (field b1 0 3))) else none

/-- The opcode map of rule R101, row by row. -/
def opcodeRow (b0 : Byte) : Row :=
  if b0 = 0x00#8 then .one .nop
  else if b0 = 0x01#8 then .one .halt
  else if b0 = 0x02#8 then .one .err
  else if b0 = 0x03#8 then .one .ret
  else if b0 = 0x04#8 then .three .jp
  else if b0 = 0x05#8 then .three .call
  else if b0 = 0x06#8 then .two subBitRes
  else if b0 = 0x07#8 then .two subXchb
  else if field b0 3 5 = 0b00001#5 then .three (.jpCc (.ofNum (field b0 0 3)))
  else if field b0 3 5 = 0b00010#5 then .three (.callCc (.ofNum (field b0 0 3)))
  else if field b0 3 5 = 0b00011#5 then .one (.retCc (.ofNum (field b0 0 3)))
  else if field b0 3 5 = 0b00100#5 then .two (fun n => some (.ldRN (.ofNum (field b0 0 3)) n))
  else if field b0 2 6 = 0b001010#6 then .three (.ldWNN (.ofNum (field b0 0 2)))
  else if b0 = 0x2C#8 then .two subLdRMem
  else if b0 = 0x2D#8 then .two subLdMemR
  else if field b0 3 5 = 0b00110#5 then .one (.inc (.ofNum (field b0 0 3)))
  else if field b0 3 5 = 0b00111#5 then .one (.dec (.ofNum (field b0 0 3)))
  else if field b0 6 2 = 0b01#2 then .one (.ldRR (.ofNum (field b0 3 3)) (.ofNum (field b0 0 3)))
  else if field b0 3 5 = 0b10000#5 then .one (.rl (.ofNum (field b0 0 3)))
  else if field b0 3 5 = 0b10001#5 then .one (.rr (.ofNum (field b0 0 3)))
  else if field b0 3 5 = 0b10010#5 then .one (.shl (.ofNum (field b0 0 3)))
  else if field b0 3 5 = 0b10011#5 then .one (.shr (.ofNum (field b0 0 3)))
  else if field b0 2 6 = 0b101000#6 then .one (.incw (.ofNum (field b0 0 2)))
  else if field b0 2 6 = 0b101001#6 then .one (.decw (.ofNum (field b0 0 2)))
  else if field b0 2 6 = 0b101010#6 then .one (.push (.ofNum (field b0 0 2)))
  else if field b0 2 6 = 0b101011#6 then .one (.pop (.ofNum (field b0 0 2)))
  else if field b0 2 6 = 0b101100#6 then .one (.xts (.ofNum (field b0 0 2)))
  else if b0 = 0xB8#8 then .one .bci
  else if b0 = 0xB9#8 then .one .bcd
  else if b0 = 0xBA#8 then .one .bcir
  else if b0 = 0xBB#8 then .one .bcdr
  else if field b0 4 4 = 0b1100#4 then .one (.addw (.ofNum (field b0 2 2)) (.ofNum (field b0 0 2)))
  else if field b0 4 4 = 0b1101#4 then .one (.adcw (.ofNum (field b0 2 2)) (.ofNum (field b0 0 2)))
  else if field b0 4 4 = 0b1110#4 then .one (.sbcw (.ofNum (field b0 2 2)) (.ofNum (field b0 0 2)))
  else if field b0 4 4 = 0b1111#4 then .one (.xchw (.ofNum (field b0 2 2)) (.ofNum (field b0 0 2)))
  else .illegal

/-- The length that byte 0 alone decides (rule R91), or none for an illegal byte 0. -/
def mcuLength (b0 : Byte) : Option Nat :=
  match opcodeRow b0 with
  | .one _ => some 1
  | .two _ => some 2
  | .three _ => some 3
  | .illegal => none

/-- Why a decoder rejects. -/
inductive Reject where
  /-- No byte at all. Raised by `decodeMcu` on the empty list; the fetch never gives it one. Safe. -/
  | noByte
  /-- Fewer bytes than byte 0 calls for. Raised by `decodeMcu`; the fetch never gives it too few. Safe. -/
  | truncated (b0 : Byte)
  /-- Byte 0 is one of the ten illegal values of rule R102. Safe: the step raises IllegalInstruction. -/
  | illegalByte0 (b0 : Byte)
  /-- Byte 1 is one that rule R95 marks illegal. Safe: the step raises IllegalInstruction. -/
  | illegalSubByte (b0 b1 : Byte)
  /-- The command word is illegal (rule R112). Safe: the step raises BadCommand. -/
  | illegalCommand (w : Word)
deriving DecidableEq, Repr

/-- What a decoder answers: an instruction and the bytes behind it, or a rejection by name. -/
inductive Decoded where
  | instr (i : Instr) (rest : List Byte)
  | reject (why : Reject)
deriving DecidableEq, Repr

/-- Decoding of instruction bytes, byte 0 first (rule R103). -/
def decodeMcu : List Byte → Decoded
  | [] => .reject .noByte
  | b0 :: bs =>
    match opcodeRow b0 with
    | .illegal => .reject (.illegalByte0 b0)
    | .one i => .instr i bs
    | .two f =>
      match bs with
      | [] => .reject (.truncated b0)
      | b1 :: rest =>
        match f b1 with
        | some i => .instr i rest
        | none => .reject (.illegalSubByte b0 b1)
    | .three f =>
      match bs with
      | [] => .reject (.truncated b0)
      | [_] => .reject (.truncated b0)
      | b1 :: b2 :: rest => .instr (f (joinBytes b2 b1)) rest

/-! ## The BSE's command words -/

/-- Bits 15:12 of a command word (rule R110). -/
def cmdOp (w : Word) : BitVec 4 := w.extractLsb' 12 4

/-- Bits 11:8 of a command word (rule R110). -/
def cmdCount (w : Word) : BitVec 4 := w.extractLsb' 8 4

/-- Bits 7:0 of a command word (rule R110). -/
def cmdData (w : Word) : Byte := w.extractLsb' 0 8

/-- Decoding of a command word (rule R111). A `PUTBITS` word is the command `PUTBITS` whatever its count
(the table's row, rule R113); the command itself raises `BadCommand` when the count is not 1 to 8 (rule R133,
log 10). Every other illegal word is rejected here (rule R112). -/
def decodeBse (w : Word) : Decoded :=
  if cmdOp w = 0x1#4 ∧ cmdCount w = 0#4 ∧ cmdData w = 0x00#8 then .instr .bsinit []
  else if cmdOp w = 0x2#4 ∧ cmdCount w = 0#4 ∧ (cmdData w).extractLsb' 1 7 = 0#7 then
    .instr (.putbit ((cmdData w).getLsbD 0)) []
  else if cmdOp w = 0x3#4 then .instr (.putbits (cmdCount w) (cmdData w)) []
  else if cmdOp w = 0x4#4 ∧ cmdCount w = 0#4 then .instr (.putbyte (cmdData w)) []
  else if cmdOp w = 0x5#4 ∧ cmdCount w = 0#4 ∧ cmdData w = 0x00#8 then .instr .flush []
  else .reject (.illegalCommand w)

/-! ## Both units -/

/-- Where an instruction's words stand: bytes of the program store, byte 0 first, or a word at the BSE's
command port. -/
inductive Code where
  | bytes (bs : List Byte)
  | command (w : Word)
deriving DecidableEq, Repr

/-- The decoder of the unit that the words are for. -/
def decode : Code → Decoded
  | .bytes bs => decodeMcu bs
  | .command w => decodeBse w

/-! ## The encoder -/

/-- `hi ∥ lo` of two fields that fill a byte. -/
def byte5 (o : BitVec 5) (r : BitVec 3) : Byte := o ++ r

/-- A 6-bit opcode and a pair field. -/
def byte6 (o : BitVec 6) (p : BitVec 2) : Byte := o ++ p

/-- A 2-bit prefix and two 3-bit fields. -/
def byte233 (o : BitVec 2) (a b : BitVec 3) : Byte := o ++ (a ++ b : BitVec 6)

/-- A 3-bit prefix, a pair field and a register field. -/
def byte323 (o : BitVec 3) (p : BitVec 2) (r : BitVec 3) : Byte := o ++ (p ++ r : BitVec 5)

/-- A 4-bit opcode and two pair fields. -/
def byte422 (o : BitVec 4) (a b : BitVec 2) : Byte := o ++ (a ++ b : BitVec 4)

/-- A command word: `op`, `n`, `d` (rule R110). -/
def cmdWord (op n : BitVec 4) (d : Byte) : Word := op ++ (n ++ d : BitVec 12)

/-- The words of an instruction (rules R91, R95, R101, R111). -/
def encode : Instr → Code
  | .nop => .bytes [0x00#8]
  | .halt => .bytes [0x01#8]
  | .err => .bytes [0x02#8]
  | .ret => .bytes [0x03#8]
  | .jp nn => .bytes [0x04#8, lowByte nn, highByte nn]
  | .call nn => .bytes [0x05#8, lowByte nn, highByte nn]
  | .bit b r => .bytes [0x06#8, byte233 0b00#2 b r.num]
  | .res b r => .bytes [0x06#8, byte233 0b01#2 b r.num]
  | .xchb ra rb => .bytes [0x07#8, byte233 0b00#2 ra.num rb.num]
  | .jpCc cc nn => .bytes [byte5 0b00001#5 cc.num, lowByte nn, highByte nn]
  | .callCc cc nn => .bytes [byte5 0b00010#5 cc.num, lowByte nn, highByte nn]
  | .retCc cc => .bytes [byte5 0b00011#5 cc.num]
  | .ldRN rd n => .bytes [byte5 0b00100#5 rd.num, n]
  | .ldWNN wp nn => .bytes [byte6 0b001010#6 wp.num, lowByte nn, highByte nn]
  | .ldRMem rd wp => .bytes [0x2C#8, byte323 0b000#3 wp.num rd.num]
  | .ldMemR wp rs => .bytes [0x2D#8, byte323 0b000#3 wp.num rs.num]
  | .inc r => .bytes [byte5 0b00110#5 r.num]
  | .dec r => .bytes [byte5 0b00111#5 r.num]
  | .ldRR rd rs => .bytes [byte233 0b01#2 rd.num rs.num]
  | .rl r => .bytes [byte5 0b10000#5 r.num]
  | .rr r => .bytes [byte5 0b10001#5 r.num]
  | .shl r => .bytes [byte5 0b10010#5 r.num]
  | .shr r => .bytes [byte5 0b10011#5 r.num]
  | .incw wp => .bytes [byte6 0b101000#6 wp.num]
  | .decw wp => .bytes [byte6 0b101001#6 wp.num]
  | .push wp => .bytes [byte6 0b101010#6 wp.num]
  | .pop wp => .bytes [byte6 0b101011#6 wp.num]
  | .xts wp => .bytes [byte6 0b101100#6 wp.num]
  | .bci => .bytes [0xB8#8]
  | .bcd => .bytes [0xB9#8]
  | .bcir => .bytes [0xBA#8]
  | .bcdr => .bytes [0xBB#8]
  | .addw wd ws => .bytes [byte422 0b1100#4 wd.num ws.num]
  | .adcw wd ws => .bytes [byte422 0b1101#4 wd.num ws.num]
  | .sbcw wd ws => .bytes [byte422 0b1110#4 wd.num ws.num]
  | .xchw wa wb => .bytes [byte422 0b1111#4 wa.num wb.num]
  | .bsinit => .command (cmdWord 0x1#4 0#4 0x00#8)
  | .putbit b => .command (cmdWord 0x2#4 0#4 (if b then 0x01#8 else 0x00#8))
  | .putbits n v => .command (cmdWord 0x3#4 n v)
  | .putbyte v => .command (cmdWord 0x4#4 0#4 v)
  | .flush => .command (cmdWord 0x5#4 0#4 0x00#8)

/-- How many bytes an encoding takes. -/
def Code.size : Code → Nat
  | .bytes bs => bs.length
  | .command _ => 2

/-! ## Words of the opcode table -/

/-- The `n` bytes of a table word: the table reads an instruction's bytes "as one big number with byte 0 in
the most significant position" (rule R104). -/
def tableBytes : Nat → Nat → List Byte
  | 0, _ => []
  | n + 1, w => BitVec.ofNat 8 (w / 2 ^ (8 * n)) :: tableBytes n w

/-- The unit a table word of `nbits` bits is for, and its words there. A 16-bit word that is a BSE command is
one; any other word is instruction bytes, and must be exactly one instruction. The two words 0x2000 and
0x2001 match both `PUTBIT` and `LD R0,#n`; they are taken as `PUTBIT`, which has no other word (log 11). -/
def tableCode (nbits w : Nat) : Option Code :=
  match nbits == 16, decodeBse (BitVec.ofNat 16 w) with
  | true, .instr _ _ => some (.command (BitVec.ofNat 16 w))
  | _, _ =>
    match decodeMcu (tableBytes (nbits / 8) w) with
    | .instr _ [] => some (.bytes (tableBytes (nbits / 8) w))
    | .instr _ (_ :: _) => none
    | .reject _ => none

/-- The instruction the decoder reads from a word of the opcode table. -/
def decodeTableWord (nbits w : Nat) : Option Instr :=
  match tableCode nbits w with
  | none => none
  | some code =>
    match decode code with
    | .instr i _ => some i
    | .reject _ => none

end Sys2Proof
end

