-- ==== Sys2Proof/Config.lean ====
section
/-! DEFINITION. What an implementation fixes (rules R5, R49; 93 P1 to P3) and the one free value (93 U2). -/

namespace Sys2Proof

/-- The open parameters of the machine (rule R5). They are constant during a run: State carries them and no
step changes them (log 1). -/
structure Params where
  /-- `PROG_SIZE`, bytes of program store, 1 to 65536 (93 P1). -/
  progSize : Nat
  /-- `STACK_DEPTH`, entries of the hardware stack, at least 1 (93 P2). -/
  stackDepth : Nat
  /-- `OUT_CAP`, bytes of BSE output buffer, at least 1 (93 P3). -/
  outCap : Nat
deriving DecidableEq, Repr

/-- The ranges the spec gives the three parameters (92, table of open parameters). -/
abbrev Params.wf (p : Params) : Prop :=
  1 ≤ p.progSize ∧ p.progSize ≤ 65536 ∧ 1 ≤ p.stackDepth ∧ 1 ≤ p.outCap

/-- The parameters of `State.reset`: the numbers the spec uses "where a number is needed" (rule R5), and the
largest program store. DESIGN CHOICE (log 1), unsafe for a claim about `State.reset` alone. -/
def Config.resetParams : Params :=
  { progSize := 65536, stackDepth := 256, outCap := 65536 }

/-- The byte a host reads at an output position that is claimed and not yet written (93 U2, "any value").
It has no value in Lean: a claim holds whatever it is. Applied to State's counter, so that each such read
draws a value of its own (log 5). -/
opaque Config.unspecifiedOut : Nat → Byte

end Sys2Proof
end

