-- ==== Sys2Proof/Machine/State.lean ====
section
/-! DEFINITION. The state of the block (10_state.md): the MCU, the BSE, the program store, the parameters of
the run, and the model's own fields for what the host sends and gets back. Plain data. -/

namespace Sys2Proof.Machine

/-- A sparse byte memory: (address, byte) pairs. Its canonical form is `Memory.sorted`; what an unlisted
address reads as is said by each memory's own read (RAM: 0x00; program store and `OUT`: no value). -/
abbrev Memory := List Host.Cell

/-- Addresses strictly rising: the canonical form of a sparse memory. -/
abbrev Memory.sorted (m : Memory) : Prop := m.Pairwise (fun x y => x.1 < y.1)

/-- The canonical form of RAM: addresses strictly rising and 16 bits wide, and no entry equal to the 0x00 that
an unlisted address reads as (rules R32, R48, R261). -/
abbrev Memory.wf (m : Memory) : Prop :=
  Memory.sorted m ∧ ∀ c ∈ m, c.1 < 65536 ∧ c.2 ≠ 0x00#8

/-- The canonical form of a memory of `size` bytes in which an unlisted address holds no value (the program
store and `OUT`). -/
abbrev Memory.wfBelow (size : Nat) (m : Memory) : Prop :=
  Memory.sorted m ∧ ∀ c ∈ m, c.1 < size

/-- The eight general registers (rule R20). -/
structure RegFile where
  r0 : Byte
  r1 : Byte
  r2 : Byte
  r3 : Byte
  r4 : Byte
  r5 : Byte
  r6 : Byte
  r7 : Byte
deriving DecidableEq, Repr

/-- The four condition flags, four separate cells (rule R28). -/
structure Flags where
  /-- Carry. -/
  c : Bool
  /-- Zero. -/
  z : Bool
  /-- Sign. -/
  s : Bool
  /-- Parity/overflow. -/
  pv : Bool
deriving DecidableEq, Repr

/-- The MCU's run state `STATE` (rule R40). -/
inductive RunState where
  | stopped | running | halted | faulted
deriving DecidableEq, Repr

/-- The MCU's fault codes (rule R231). Codes 6 and 7 are never written and have no constructor (93 U5). -/
inductive McuFault where
  /-- Code 1, raised by decode. -/
  | illegalInstruction
  /-- Code 2, raised by fetch. -/
  | fetchOutOfRange
  /-- Code 3, raised by `PUSH`, `CALL` and a taken `CALL cc`. -/
  | stackOverflow
  /-- Code 4, raised by `POP`, `XTS`, `RET` and a taken `RET cc`. -/
  | stackUnderflow
  /-- Code 5, raised by `ERR`. -/
  | softwareError
deriving DecidableEq, Repr

/-- The BSE's fault codes (rule R239). Code 3 is never written and has no constructor (93 U5). -/
inductive BseFault where
  /-- Code 1: an illegal command word. -/
  | badCommand
  /-- Code 2: a command needs an output position that does not exist. -/
  | outputFull
deriving DecidableEq, Repr

/-- The MCU's state. -/
structure Mcu where
  /-- `R0`..`R7` (rule R20). -/
  regs : RegFile
  /-- `C`, `Z`, `S`, `PV` (rule R28). -/
  flags : Flags
  /-- The program counter, M3 (rule R24). -/
  pc : Word
  /-- The hardware stack's entries in use, the top entry first; `SD` is its length (rule R30, log 6). -/
  stk : List Word
  /-- The 65536 bytes of RAM (rule R32); an unlisted address reads 0x00 (rules R48, R261). -/
  ram : Memory
  /-- `STATE`, M0 (rule R40). -/
  run : RunState
  /-- `FAULT`, M1; none is code 0 (rule R41). -/
  fault : Option McuFault
  /-- `FPC`, M2 (rule R42). -/
  fpc : Word
deriving DecidableEq, Repr

/-- The BSE's state (rules R9, R34, R44, R45). -/
structure Bse where
  /-- The pending partial byte, B2. -/
  acc : Byte
  /-- The number of bits in `acc`, 0 to 7, B1. -/
  cnt : BitVec 3
  /-- The output position reserved for the pending byte, B3. -/
  slot : Nat
  /-- The number of output positions claimed so far, B4. -/
  wp : Nat
  /-- The output buffer `OUT`; an unlisted position was never written (93 U2, U3). -/
  out : Memory
  /-- The fault latch, B0; none is code 0 (rule R44). -/
  bfault : Option BseFault
deriving DecidableEq, Repr

/-- A host transaction (rule R263). Host register numbers are plain numbers: `m` is M0, M1, …, `b` is B0, …. -/
inductive HostOp where
  | reset
  | loadProg (a : Nat) (v : Byte)
  | writeRam (a : Word) (v : Byte)
  | writeReg (m : Nat) (v : Word)
  | start
  | readState
  | readReg (m : Nat)
  | readRam (a : Word)
  | readStk (i : Nat)
  | bseCmd (w : Word)
  | bseRead (b : Nat)
  | bseOut (i : Nat)
deriving DecidableEq, Repr

/-- One agent's move: an MCU step, or a host transaction (rule R2). -/
inductive Move where
  | mcu
  | host (t : HostOp)
deriving DecidableEq, Repr

/-- What the host gets back from a transaction (rule R263, last column). -/
inductive Reply where
  /-- The transaction was accepted and gives nothing back. -/
  | nothing
  /-- The transaction was refused and changed nothing. -/
  | refused
  /-- The value read. -/
  | value (n : Nat)
deriving DecidableEq, Repr

/-- The state of the whole block. -/
structure State where
  /-- `PROG_SIZE`, `STACK_DEPTH`, `OUT_CAP`: constant during a run (rules R5, R49, log 1). -/
  params : Params
  /-- The program store (rule R33); an unlisted address was never loaded (93 U4, log 4). -/
  prog : Memory
  /-- The micro-CPU interpreter core. -/
  mcu : Mcu
  /-- The bitstream encoder. -/
  bse : Bse
  /-- The model's own field: the moves still to come, the next one first; when it is empty the MCU moves
  (log 2). -/
  inbox : List Move
  /-- The model's own field: what the last host transaction gave back (log 7). -/
  reply : Reply
  /-- The model's own field: how many unspecified bytes the host has been given (93 U2, log 5). -/
  freeCount : Nat
deriving DecidableEq, Repr

/-- Why the model stops without a next state. The hardware's own faults are no such stop: they are next
states (rules R232, R240). -/
inductive Fault where
  /-- A byte of the program store below `PROG_SIZE` that nothing loaded was fetched: "a run that fetches it has
  no defined meaning" (rule R262; rule R269 lets a model fault on the read). Raised by the MCU's step. Safe:
  the model says nothing about such a run (log 4). -/
  | unloadedProgramByte (a : Word)
deriving DecidableEq, Repr

/-- Why the model has no meaning for an instruction. -/
inductive Refusal where
  /-- The instruction is not modelled yet. Raised by an arm of `exec` alone. Safe: nothing is claimed of it. -/
  | notModelled (mnemonic : String)
deriving DecidableEq, Repr

/-- What one step or one instruction answers. -/
abbrev Result := Host.Outcome State Fault Refusal

/-- The MCU after reset (rules R48, R260): everything zero, `STATE` = STOPPED, the stack empty. -/
def Mcu.reset : Mcu where
  regs := ⟨0#8, 0#8, 0#8, 0#8, 0#8, 0#8, 0#8, 0#8⟩
  flags := ⟨false, false, false, false⟩
  pc := 0x0000#16
  stk := []
  ram := []
  run := .stopped
  fault := none
  fpc := 0x0000#16

/-- The BSE after reset (rules R48, R260): all registers zero; `OUT` unspecified, so nothing listed. -/
def Bse.reset : Bse where
  acc := 0x00#8
  cnt := 0#3
  slot := 0
  wp := 0
  out := []
  bfault := none

/-- The block after reset (rules R48, R260), with the parameters of log 1. The program store is unspecified
until the host loads it, so nothing is listed. -/
def State.reset : State where
  params := Config.resetParams
  prog := []
  mcu := Mcu.reset
  bse := Bse.reset
  inbox := []
  reply := .nothing
  freeCount := 0

end Sys2Proof.Machine
end

