-- ==== Sys2Proof/Machine/Operands.lean ====
section
/-! DEFINITION. Operand forms: the halves of a pair, the register file, conditions, the fixed roles of the
block-copy pairs (rules R20 to R22, R99, R190). -/

namespace Sys2Proof.Machine

/-- The register that is the high byte of a pair: the even one, `R[2p]` (rule R21). -/
def pairHi : Pair → Reg
  | .w0 => .r0
  | .w1 => .r2
  | .w2 => .r4
  | .w3 => .r6

/-- The register that is the low byte of a pair: the odd one, `R[2p+1]` (rule R21). -/
def pairLo : Pair → Reg
  | .w0 => .r1
  | .w1 => .r3
  | .w2 => .r5
  | .w3 => .r7

/-- `R[i]` (rule R7). -/
def RegFile.get (f : RegFile) : Reg → Byte
  | .r0 => f.r0
  | .r1 => f.r1
  | .r2 => f.r2
  | .r3 => f.r3
  | .r4 => f.r4
  | .r5 => f.r5
  | .r6 => f.r6
  | .r7 => f.r7

/-- `R[i] <- v` (rule R7). -/
def RegFile.set (f : RegFile) (r : Reg) (v : Byte) : RegFile :=
  match r with
  | .r0 => { f with r0 := v }
  | .r1 => { f with r1 := v }
  | .r2 => { f with r2 := v }
  | .r3 => { f with r3 := v }
  | .r4 => { f with r4 := v }
  | .r5 => { f with r5 := v }
  | .r6 => { f with r6 := v }
  | .r7 => { f with r7 := v }

/-- `W[p]` (rules R7, R21). -/
def RegFile.getPair (f : RegFile) (p : Pair) : Word := joinBytes (f.get (pairHi p)) (f.get (pairLo p))

/-- `W[p] <- v` (rules R7, R21). -/
def RegFile.setPair (f : RegFile) (p : Pair) (v : Word) : RegFile :=
  (f.set (pairHi p) (highByte v)).set (pairLo p) (lowByte v)

/-- `cond(ccc)` (rule R99). -/
def condHolds (cc : Cond) (f : Flags) : Bool :=
  match cc with
  | .nz => !f.z
  | .z => f.z
  | .nc => !f.c
  | .c => f.c
  | .po => !f.pv
  | .pe => f.pv
  | .p => !f.s
  | .m => f.s

/-- The pair that holds the source address of a block copy (rules R22, R190). -/
def bcSource : Pair := .w2

/-- The pair that holds the destination address of a block copy. -/
def bcDest : Pair := .w1

/-- The pair that holds the byte counter of a block copy. -/
def bcCount : Pair := .w0

/-- A byte with bit `i` made `b` (rules R131, R175). -/
def putBitAt (v : Byte) (i : Nat) (b : Bool) : Byte :=
  (v &&& ~~~(1#8 <<< i)) ||| (if b then 1#8 <<< i else 0#8)

end Sys2Proof.Machine
end

