-- ==== Sys2Proof/Machine/Flags.lean ====
section
/-! DEFINITION. The flag computations (rule R8) and the flag results of each family (rule R29). -/

namespace Sys2Proof.Machine

/-- The number of 1 bits of a byte. -/
def onesCount (r : Byte) : Nat :=
  (r.getLsbD 0).toNat + (r.getLsbD 1).toNat + (r.getLsbD 2).toNat + (r.getLsbD 3).toNat
    + (r.getLsbD 4).toNat + (r.getLsbD 5).toNat + (r.getLsbD 6).toNat + (r.getLsbD 7).toNat

/-- `zero_N(r)` (rule R8). -/
def zeroFlag {n : Nat} (r : BitVec n) : Bool := r == 0#n

/-- `sign_N(r)` = `r[N-1]` (rule R8). -/
def signFlag {n : Nat} (r : BitVec n) : Bool := r.msb

/-- `parity_even(r)` (rule R8). -/
def parityEven (r : Byte) : Bool := onesCount r % 2 == 0

/-- `ovf_add_N(a, b, r)` (rule R8). -/
def ovfAdd {n : Nat} (a b r : BitVec n) : Bool := a.msb == b.msb && r.msb != a.msb

/-- `ovf_sub_N(a, b, r)` (rule R8). -/
def ovfSub {n : Nat} (a b r : BitVec n) : Bool := a.msb != b.msb && r.msb != a.msb

/-- Flags of an increment or decrement: `Z`, `S` from the result, `PV` given, `C` unchanged
(rules R160 to R163). -/
def Flags.ofIncDec {n : Nat} (f : Flags) (res : BitVec n) (pv : Bool) : Flags :=
  { c := f.c, z := zeroFlag res, s := signFlag res, pv := pv }

/-- Flags of a rotate or shift: `C` the bit moved out, `Z`, `S`, even parity (rules R170 to R173). -/
def Flags.ofShift (out : Bool) (res : Byte) : Flags :=
  { c := out, z := zeroFlag res, s := signFlag res, pv := parityEven res }

/-- Flags of a pair addition or subtraction (rules R180 to R182). -/
def Flags.ofArith (carry : Bool) (res : Word) (ovf : Bool) : Flags :=
  { c := carry, z := zeroFlag res, s := signFlag res, pv := ovf }

/-- The packed view `FLAGS`, M5: bit 0 = `C`, 1 = `Z`, 2 = `S`, 3 = `PV`, bits 7:4 read 0 (rule R43). -/
def Flags.pack (f : Flags) : Byte :=
  (0#4 ++ (BitVec.ofBool f.pv ++ BitVec.ofBool f.s ++ BitVec.ofBool f.z ++ BitVec.ofBool f.c : BitVec 4) : BitVec 8)

/-- A write of the packed view; bits 7:4 are ignored (rule R43). -/
def Flags.unpack (v : Byte) : Flags :=
  { c := v.getLsbD 0, z := v.getLsbD 1, s := v.getLsbD 2, pv := v.getLsbD 3 }

end Sys2Proof.Machine
end

