-- ==== Sys2Proof/Machine/Ops.lean ====
section
/-! DEFINITION. The named operations over memory, registers, stack and the BSE's buffer (rules R7, R9, R65 to
R68), and taking a fault (rules R232, R240). -/

namespace Sys2Proof.Machine

/-! ## Sparse memories -/

/-- The byte listed at an address. -/
def Memory.find (a : Nat) : Memory → Option Byte
  | [] => none
  | (k, v) :: m => if k = a then some v else Memory.find a m

/-- The memory with a byte listed at an address, in its place. -/
def Memory.put (a : Nat) (v : Byte) : Memory → Memory
  | [] => [(a, v)]
  | (k, w) :: m =>
    if a < k then (a, v) :: (k, w) :: m
    else if a = k then (a, v) :: m
    else (k, w) :: Memory.put a v m

/-- The memory with nothing listed at an address. -/
def Memory.drop (a : Nat) : Memory → Memory
  | [] => []
  | (k, w) :: m => if k = a then Memory.drop a m else (k, w) :: Memory.drop a m

/-- What a byte of RAM that nothing has written reads as (rules R48, R65, R261). -/
def ramDefault : Byte := 0x00#8

/-- A byte of RAM (rule R67). -/
def Memory.read (m : Memory) (a : Word) : Byte := (Memory.find a.toNat m).getD ramDefault

/-- A byte of RAM written (rule R67). Writing the byte an unlisted address reads as removes the entry. -/
def Memory.write (m : Memory) (a : Word) (v : Byte) : Memory :=
  if v = ramDefault then Memory.drop a.toNat m else Memory.put a.toNat v m

/-! ## Registers, flags, program counter -/

/-- `R[r]`. -/
def State.readReg (s : State) (r : Reg) : Byte := s.mcu.regs.get r

/-- `R[r] <- v`. -/
def State.writeReg (s : State) (r : Reg) (v : Byte) : State :=
  { s with mcu := { s.mcu with regs := s.mcu.regs.set r v } }

/-- `W[p]`. -/
def State.readPair (s : State) (p : Pair) : Word := s.mcu.regs.getPair p

/-- `W[p] <- v`. -/
def State.writePair (s : State) (p : Pair) (v : Word) : State :=
  { s with mcu := { s.mcu with regs := s.mcu.regs.setPair p v } }

/-- All four flags written. -/
def State.setFlags (s : State) (f : Flags) : State :=
  { s with mcu := { s.mcu with flags := f } }

/-- `pc <- target`. -/
def State.setPc (s : State) (target : Word) : State :=
  { s with mcu := { s.mcu with pc := target } }

/-- The address `n` bytes on, modulo 2^16 (rule R26). -/
def State.pcPlus (s : State) (n : Nat) : Word := s.mcu.pc + BitVec.ofNat 16 n

/-- `pc <- (pc + n) mod 2^16` (rules R26, R27). -/
def State.advance (s : State) (n : Nat) : State := s.setPc (s.pcPlus n)

/-- `STATE <- r` (rule R40). -/
def State.setRun (s : State) (r : RunState) : State :=
  { s with mcu := { s.mcu with run := r } }

/-! ## RAM -/

/-- `MemRead(addr, 1)` (rules R7, R67). -/
def State.readRam (s : State) (a : Word) : Byte := Memory.read s.mcu.ram a

/-- `MemWrite(addr, 1, v)` (rules R7, R67). -/
def State.writeRam (s : State) (a : Word) (v : Byte) : State :=
  { s with mcu := { s.mcu with ram := Memory.write s.mcu.ram a v } }

/-! ## The hardware stack -/

/-- `SD`, the number of entries in use (rule R30). -/
def State.sd (s : State) : Nat := s.mcu.stk.length

/-- The stack's entries in use, the top first. -/
def State.setStk (s : State) (l : List Word) : State :=
  { s with mcu := { s.mcu with stk := l } }

/-- `Push(v)` (rule R7), after the overflow check. -/
def State.pushStk (s : State) (v : Word) : State := s.setStk (v :: s.mcu.stk)

/-- `STK[i]` for `i < SD`, counted from the bottom (rule R30). -/
def State.stkEntry (s : State) (i : Nat) : Option Word := s.mcu.stk.reverse[i]?

/-! ## Taking a fault

There is no handler, no vector and no return from one (rule R235): only reset leaves FAULTED, and only reset or
`BSINIT` clears `BFAULT`. -/

/-- MCU fault entry (rule R232): `FAULT`, `FPC` and `STATE` are written, nothing else changes. -/
def State.raise (s : State) (k : McuFault) : State :=
  { s with mcu := { s.mcu with fault := some k, fpc := s.mcu.pc, run := .faulted } }

/-- BSE fault entry (rule R240): `BFAULT` is written, nothing else changes. -/
def State.raiseBse (s : State) (k : BseFault) : State :=
  { s with bse := { s.bse with bfault := some k } }

/-! ## The BSE's buffer -/

/-- The BSE's state written. -/
def State.setBse (s : State) (e : Bse) : State := { s with bse := e }

/-- `OUT[i] <- v` (rule R68). -/
def Bse.writeOut (e : Bse) (i : Nat) (v : Byte) : Bse := { e with out := Memory.put i v e.out }

/-- The byte written at output position `i`, if any. -/
def Bse.outAt (e : Bse) (i : Nat) : Option Byte := Memory.find i e.out

/-- The first two lines of `PutBit` (rule R131): the first bit of a new partial byte claims its position. -/
def Bse.claim (e : Bse) : Bse :=
  if e.cnt = 0#3 then { e with slot := e.wp, wp := e.wp + 1 } else e

/-- The rest of `PutBit` (rule R131): the bit lands in `ACC[7 - CNT]`; the eighth bit writes the byte. -/
def Bse.accept (e : Bse) (b : Bool) : Bse :=
  if e.cnt = 7#3 then
    { e.writeOut e.slot (putBitAt e.acc (7 - e.cnt.toNat) b) with acc := 0x00#8, cnt := 0#3 }
  else
    { e with acc := putBitAt e.acc (7 - e.cnt.toNat) b, cnt := e.cnt + 1#3 }

/-- `PutBit(b)` (rule R131). -/
def Bse.putBit (e : Bse) (b : Bool) : Bse := e.claim.accept b

/-- `for i = n-1 down to 0: PutBit(v[i])` (rule R133). -/
def Bse.putBits : Nat → Byte → Bse → Bse
  | 0, _, e => e
  | n + 1, v, e => Bse.putBits n v (e.putBit (v.getLsbD n))

/-- The flush of the pending byte (rule R134). -/
def Bse.flush (e : Bse) : Bse :=
  if e.cnt = 0#3 then e
  else { e.writeOut e.slot e.acc with acc := 0x00#8, cnt := 0#3 }

/-- A whole byte appended (rule R135). -/
def Bse.putByte (e : Bse) (v : Byte) : Bse :=
  { e.writeOut e.wp v with wp := e.wp + 1 }

/-- The encoder's registers reset; `OUT` is not cleared (rule R130). -/
def Bse.init (e : Bse) : Bse :=
  { e with acc := 0x00#8, cnt := 0#3, slot := 0, wp := 0, bfault := none }

end Sys2Proof.Machine
end

