-- ==== Sys2Proof/Machine/BlockCopy.lean ====
section
/-! DEFINITION. The MCU's block copies (45_mcu_block_copy.md). No flag changes. -/

namespace Sys2Proof.Machine

/-- The step's effect on the three pairs: addresses move by `dir`, the counter falls by 1, modulo 2^16, and no
flag is written (rule R190). -/
def State.bcCountdown (s : State) (dir : Word) : State :=
  ((s.writePair bcSource (s.readPair bcSource + dir)).writePair bcDest (s.readPair bcDest + dir)).writePair bcCount
    (s.readPair bcCount - 1#16)

/-- `BcStep(dir)` (rule R190), `dir` being 1 or -1 modulo 2^16. -/
def State.bcStep (s : State) (dir : Word) : State :=
  (s.writeRam (s.readPair bcDest) (s.readRam (s.readPair bcSource))).bcCountdown dir

/-- `repeat BcStep(dir) until W[0] == 0`, with fuel (rules R193, R194). -/
def State.bcRepeat (dir : Word) : Nat → State → State
  | 0, s => s
  | fuel + 1, s =>
    let t := s.bcStep dir
    if t.readPair bcCount = 0#16 then t else State.bcRepeat dir fuel t

/-- The fuel that every repeating block copy stays within (rule R196). -/
def bcFuel : Nat := 65536

/-- +1. -/
def bcUp : Word := 0x0001#16

/-- -1 modulo 2^16. -/
def bcDown : Word := 0xFFFF#16

/-- `BCI` (rule R191). -/
def execBci (s : State) : Result := .next ((s.bcStep bcUp).advance 1)

/-- `BCD` (rule R192). -/
def execBcd (s : State) : Result := .next ((s.bcStep bcDown).advance 1)

/-- `BCIR` (rule R193): the body runs before the test, and `pc` advances once. -/
def execBcir (s : State) : Result := .next ((State.bcRepeat bcUp bcFuel s).advance 1)

/-- `BCDR` (rule R194). -/
def execBcdr (s : State) : Result := .next ((State.bcRepeat bcDown bcFuel s).advance 1)

end Sys2Proof.Machine
end

