-- ==== Sys2Proof/Machine/StackExch.lean ====
section
/-! DEFINITION. The MCU's stack and exchange instructions (46_mcu_stack_exchange.md). No flag changes. -/

namespace Sys2Proof.Machine

/-- The stack is full: `SD == STACK_DEPTH` (rule R31). -/
def State.stkFull (s : State) : Bool := s.sd == s.params.stackDepth

/-- `PUSH Wp` (rule R200). -/
def execPush (wp : Pair) (s : State) : Result :=
  if s.stkFull then .next (s.raise .stackOverflow)
  else .next ((s.pushStk (s.readPair wp)).advance 1)

/-- `POP Wp` (rule R201). -/
def execPop (wp : Pair) (s : State) : Result :=
  match s.mcu.stk with
  | [] => .next (s.raise .stackUnderflow)
  | t :: rest => .next (((s.setStk rest).writePair wp t).advance 1)

/-- `XTS Wp` (rule R202). -/
def execXts (wp : Pair) (s : State) : Result :=
  match s.mcu.stk with
  | [] => .next (s.raise .stackUnderflow)
  | t :: rest => .next (((s.setStk (s.readPair wp :: rest)).writePair wp t).advance 1)

/-- `XCHW Wa,Wb` (rule R203). -/
def execXchw (wa wb : Pair) (s : State) : Result :=
  .next (((s.writePair wa (s.readPair wb)).writePair wb (s.readPair wa)).advance 1)

/-- `XCHB Ra,Rb` (rule R204). -/
def execXchb (ra rb : Reg) (s : State) : Result :=
  .next (((s.writeReg ra (s.readReg rb)).writeReg rb (s.readReg ra)).advance 2)

end Sys2Proof.Machine
end

