-- ==== Sys2Proof/Machine/Control.lean ====
section
/-! DEFINITION. The MCU's control-transfer and system instructions (47_mcu_control.md). No flag changes. -/

namespace Sys2Proof.Machine

/-- A call: `(pc + 3) mod 2^16` is pushed and `pc` goes to the target, after the overflow check (rule R212). -/
def State.callTo (s : State) (nn : Word) : State :=
  if s.stkFull then s.raise .stackOverflow
  else (s.pushStk (s.pcPlus 3)).setPc nn

/-- A return: the top entry is popped into `pc`, after the underflow check (rule R214). -/
def State.returnTop (s : State) : State :=
  match s.mcu.stk with
  | [] => s.raise .stackUnderflow
  | t :: rest => (s.setStk rest).setPc t

/-- `JP nn` (rule R210). -/
def execJp (nn : Word) (s : State) : Result := .next (s.setPc nn)

/-- `JP cc,nn` (rule R211). -/
def execJpCc (cc : Cond) (nn : Word) (s : State) : Result :=
  .next (if condHolds cc s.mcu.flags then s.setPc nn else s.advance 3)

/-- `CALL nn` (rule R212). -/
def execCall (nn : Word) (s : State) : Result := .next (s.callTo nn)

/-- `CALL cc,nn` (rule R213): a false condition does not look at the stack. -/
def execCallCc (cc : Cond) (nn : Word) (s : State) : Result :=
  .next (if condHolds cc s.mcu.flags then s.callTo nn else s.advance 3)

/-- `RET` (rule R214). -/
def execRet (s : State) : Result := .next s.returnTop

/-- `RET cc` (rule R215): a false condition does not look at the stack. -/
def execRetCc (cc : Cond) (s : State) : Result :=
  .next (if condHolds cc s.mcu.flags then s.returnTop else s.advance 1)

/-- `NOP` (rule R216). -/
def execNop (s : State) : Result := .next (s.advance 1)

/-- `HALT` (rule R217): `pc` keeps the address of the `HALT`. -/
def execHalt (s : State) : Result := .next (s.setRun .halted)

/-- `ERR` (rule R218). -/
def execErr (s : State) : Result := .next (s.raise .softwareError)

end Sys2Proof.Machine
end

