-- ==== Sys2Proof/Machine/Encoder.lean ====
section
/-! DEFINITION. The BSE's commands (40_bse_commands.md) and what an illegal command word does (rule R240). -/

namespace Sys2Proof.Machine

/-- A command other than `BSINIT`: ignored, with no state change at all, while `BFAULT` is set
(rules R240, R241). -/
def State.bseUnlessFaulted (s : State) (act : State) : Result :=
  match s.bse.bfault with
  | some _ => .next s
  | none => .next act

/-- There is no further output position: `WP == OUT_CAP` (rule R68). -/
def State.outFull (s : State) : Bool := s.bse.wp == s.params.outCap

/-- `PUTBITS n` needs a new slot: `CNT == 0 or CNT + n > 8` (rule R133). -/
def Bse.needsSlot (e : Bse) (n : Nat) : Bool := e.cnt == 0#3 || decide (8 < e.cnt.toNat + n)

/-- `BSINIT` (rule R130): the one command that runs while `BFAULT` is set. -/
def execBsinit (s : State) : Result := .next (s.setBse s.bse.init)

/-- `PUTBIT b` (rule R132). -/
def execPutbit (b : Bool) (s : State) : Result :=
  s.bseUnlessFaulted
    (if s.bse.cnt == 0#3 && s.outFull then s.raiseBse .outputFull else s.setBse (s.bse.putBit b))

/-- `PUTBITS n,v` (rule R133), the checks in the order of rule R241. -/
def execPutbits (n : BitVec 4) (v : Byte) (s : State) : Result :=
  s.bseUnlessFaulted
    (if n.toNat = 0 ∨ 8 < n.toNat then s.raiseBse .badCommand
    else if s.bse.needsSlot n.toNat && s.outFull then s.raiseBse .outputFull
    else s.setBse (Bse.putBits n.toNat v s.bse))

/-- `FLUSH` (rule R134). -/
def execFlush (s : State) : Result := s.bseUnlessFaulted (s.setBse s.bse.flush)

/-- `PUTBYTE v` (rule R135). -/
def execPutbyte (v : Byte) (s : State) : Result :=
  s.bseUnlessFaulted (if s.outFull then s.raiseBse .outputFull else s.setBse (s.bse.putByte v))

/-- A word that is no legal command (rules R112, R240): it sets `BFAULT` to `BadCommand`, unless a fault is
set already and the word is not a `BSINIT` by its `op`; then it is ignored. -/
def State.badCommand (s : State) (op : BitVec 4) : State :=
  if s.bse.bfault = none ∨ op = 0x1#4 then s.raiseBse .badCommand else s

end Sys2Proof.Machine
end

