-- ==== Sys2Proof/Machine/IncDec.lean ====
section
/-! DEFINITION. The MCU's increment and decrement instructions (42_mcu_inc_dec.md): `Z`, `S`, `PV` written,
`C` unchanged. -/

namespace Sys2Proof.Machine

/-- An 8-bit register and the flags of an increment or decrement written. -/
def State.incDecReg (s : State) (r : Reg) (res : Byte) (pv : Bool) : State :=
  ((s.writeReg r res).setFlags (s.mcu.flags.ofIncDec res pv)).advance 1

/-- A pair and the flags of an increment or decrement written. -/
def State.incDecPair (s : State) (p : Pair) (res : Word) (pv : Bool) : State :=
  ((s.writePair p res).setFlags (s.mcu.flags.ofIncDec res pv)).advance 1

/-- `INC Rr` (rule R160): `PV` is 1 when the old value was 0x7F. -/
def execInc (r : Reg) (s : State) : Result :=
  .next (s.incDecReg r (s.readReg r + 1#8) (s.readReg r == 0x7F#8))

/-- `DEC Rr` (rule R161): `PV` is 1 when the old value was 0x80. -/
def execDec (r : Reg) (s : State) : Result :=
  .next (s.incDecReg r (s.readReg r - 1#8) (s.readReg r == 0x80#8))

/-- `INCW Wp` (rule R162): `PV` is 1 when the old value was 0x7FFF. -/
def execIncw (wp : Pair) (s : State) : Result :=
  .next (s.incDecPair wp (s.readPair wp + 1#16) (s.readPair wp == 0x7FFF#16))

/-- `DECW Wp` (rule R163): `PV` is 1 when the old value was 0x8000. -/
def execDecw (wp : Pair) (s : State) : Result :=
  .next (s.incDecPair wp (s.readPair wp - 1#16) (s.readPair wp == 0x8000#16))

end Sys2Proof.Machine
end

