-- ==== Sys2Proof/Machine/LoadMove.lean ====
section
/-! DEFINITION. The MCU's load and move instructions (41_mcu_load_move.md). No flag changes. -/

namespace Sys2Proof.Machine

/-- `LD Rd,Rs` (rule R150). -/
def execLdRR (rd rs : Reg) (s : State) : Result :=
  .next ((s.writeReg rd (s.readReg rs)).advance 1)

/-- `LD Rd,#n` (rule R151). -/
def execLdRN (rd : Reg) (n : Byte) (s : State) : Result :=
  .next ((s.writeReg rd n).advance 2)

/-- `LD Wp,#nn` (rule R152). -/
def execLdWNN (wp : Pair) (nn : Word) (s : State) : Result :=
  .next ((s.writePair wp nn).advance 3)

/-- `LD Rd,(Wp)` (rule R153): the address is the pair's value before the load. -/
def execLdRMem (rd : Reg) (wp : Pair) (s : State) : Result :=
  .next ((s.writeReg rd (s.readRam (s.readPair wp))).advance 2)

/-- `LD (Wp),Rs` (rule R154). -/
def execLdMemR (wp : Pair) (rs : Reg) (s : State) : Result :=
  .next ((s.writeRam (s.readPair wp) (s.readReg rs)).advance 2)

end Sys2Proof.Machine
end

