-- ==== Sys2Proof/Machine/PairArith.lean ====
section
/-! DEFINITION. The MCU's 16-bit pair arithmetic (44_mcu_pair_arith.md): all four flags written. -/

namespace Sys2Proof.Machine

/-- A pair and the flags of an addition or subtraction written. -/
def State.arithPair (s : State) (p : Pair) (carry : Bool) (res : Word) (ovf : Bool) : State :=
  ((s.writePair p res).setFlags (Flags.ofArith carry res ovf)).advance 1

/-- `sum17` (rules R180, R181), as an exact number. -/
def sum17 (a b : Word) (cin : Bool) : Nat := a.toNat + b.toNat + cin.toNat

/-- `diff` (rule R182), as an exact integer. -/
def diff17 (a b : Word) (cin : Bool) : Int := (a.toNat : Int) - (b.toNat : Int) - (cin.toNat : Int)

/-- `sum17[15:0]`. -/
def addRes (a b : Word) (cin : Bool) : Word := BitVec.ofNat 16 (sum17 a b cin)

/-- `sum17[16]`. -/
def addCarry (a b : Word) (cin : Bool) : Bool := decide (65536 ≤ sum17 a b cin)

/-- `diff mod 2^16`. -/
def subRes (a b : Word) (cin : Bool) : Word := BitVec.ofInt 16 (diff17 a b cin)

/-- The borrow out: `diff < 0`. -/
def subBorrow (a b : Word) (cin : Bool) : Bool := decide (diff17 a b cin < 0)

/-- `ADDW Wd,Ws` (rule R180). -/
def execAddw (wd ws : Pair) (s : State) : Result :=
  let a := s.readPair wd
  let b := s.readPair ws
  let res := addRes a b false
  .next (s.arithPair wd (addCarry a b false) res (ovfAdd a b res))

/-- `ADCW Wd,Ws` (rule R181). -/
def execAdcw (wd ws : Pair) (s : State) : Result :=
  let a := s.readPair wd
  let b := s.readPair ws
  let res := addRes a b s.mcu.flags.c
  .next (s.arithPair wd (addCarry a b s.mcu.flags.c) res (ovfAdd a b res))

/-- `SBCW Wd,Ws` (rule R182). -/
def execSbcw (wd ws : Pair) (s : State) : Result :=
  let a := s.readPair wd
  let b := s.readPair ws
  let res := subRes a b s.mcu.flags.c
  .next (s.arithPair wd (subBorrow a b s.mcu.flags.c) res (ovfSub a b res))

end Sys2Proof.Machine
end

