-- ==== Sys2Proof/Machine/RotShift.lean ====
section
/-! DEFINITION. The MCU's rotate, shift and bit instructions (43_mcu_rotate_shift_bit.md). -/

namespace Sys2Proof.Machine

/-- `old[6:0] ∥ b` (rules R170, R172). -/
def shiftLeftIn (old : Byte) (b : Bool) : Byte := (old.extractLsb' 0 7 ++ BitVec.ofBool b : BitVec 8)

/-- `b ∥ old[7:1]` (rules R171, R173). -/
def shiftRightIn (old : Byte) (b : Bool) : Byte := (BitVec.ofBool b ++ old.extractLsb' 1 7 : BitVec 8)

/-- A register and the flags of a rotate or shift written; `out` is the bit moved out. -/
def State.shiftReg (s : State) (r : Reg) (out : Bool) (res : Byte) : State :=
  ((s.writeReg r res).setFlags (Flags.ofShift out res)).advance 1

/-- `RL Rr` (rule R170). -/
def execRl (r : Reg) (s : State) : Result :=
  .next (s.shiftReg r ((s.readReg r).getLsbD 7) (shiftLeftIn (s.readReg r) s.mcu.flags.c))

/-- `RR Rr` (rule R171). -/
def execRr (r : Reg) (s : State) : Result :=
  .next (s.shiftReg r ((s.readReg r).getLsbD 0) (shiftRightIn (s.readReg r) s.mcu.flags.c))

/-- `SHL Rr` (rule R172). -/
def execShl (r : Reg) (s : State) : Result :=
  .next (s.shiftReg r ((s.readReg r).getLsbD 7) (shiftLeftIn (s.readReg r) false))

/-- `SHR Rr` (rule R173). -/
def execShr (r : Reg) (s : State) : Result :=
  .next (s.shiftReg r ((s.readReg r).getLsbD 0) (shiftRightIn (s.readReg r) false))

/-- `BIT b,Rr` (rule R174): `Z` is the complement of the tested bit; nothing else is written. -/
def execBit (b : BitVec 3) (r : Reg) (s : State) : Result :=
  .next ((s.setFlags { s.mcu.flags with z := !(s.readReg r).getLsbD b.toNat }).advance 2)

/-- `RES b,Rr` (rule R175). -/
def execRes (b : BitVec 3) (r : Reg) (s : State) : Result :=
  .next ((s.writeReg r (putBitAt (s.readReg r) b.toNat false)).advance 2)

end Sys2Proof.Machine
end

