-- ==== Sys2Proof/Machine/Dispatch.lean ====
section
/-! DEFINITION. The meaning of every instruction, one arm for each constructor of Instr. -/

namespace Sys2Proof.Machine

def exec (i : Instr) (s : State) : Host.Outcome State Fault Refusal :=
  match i with
  | .nop => Sys2Proof.Machine.execNop s
  | .halt => Sys2Proof.Machine.execHalt s
  | .err => Sys2Proof.Machine.execErr s
  | .ret => Sys2Proof.Machine.execRet s
  | .jp nn => Sys2Proof.Machine.execJp nn s
  | .call nn => Sys2Proof.Machine.execCall nn s
  | .bit b r => Sys2Proof.Machine.execBit b r s
  | .res b r => Sys2Proof.Machine.execRes b r s
  | .xchb ra rb => Sys2Proof.Machine.execXchb ra rb s
  | .jpCc cc nn => Sys2Proof.Machine.execJpCc cc nn s
  | .callCc cc nn => Sys2Proof.Machine.execCallCc cc nn s
  | .retCc cc => Sys2Proof.Machine.execRetCc cc s
  | .ldRN rd n => Sys2Proof.Machine.execLdRN rd n s
  | .ldWNN wp nn => Sys2Proof.Machine.execLdWNN wp nn s
  | .ldRMem rd wp => Sys2Proof.Machine.execLdRMem rd wp s
  | .ldMemR wp rs => Sys2Proof.Machine.execLdMemR wp rs s
  | .inc r => Sys2Proof.Machine.execInc r s
  | .dec r => Sys2Proof.Machine.execDec r s
  | .ldRR rd rs => Sys2Proof.Machine.execLdRR rd rs s
  | .rl r => Sys2Proof.Machine.execRl r s
  | .rr r => Sys2Proof.Machine.execRr r s
  | .shl r => Sys2Proof.Machine.execShl r s
  | .shr r => Sys2Proof.Machine.execShr r s
  | .incw wp => Sys2Proof.Machine.execIncw wp s
  | .decw wp => Sys2Proof.Machine.execDecw wp s
  | .push wp => Sys2Proof.Machine.execPush wp s
  | .pop wp => Sys2Proof.Machine.execPop wp s
  | .xts wp => Sys2Proof.Machine.execXts wp s
  | .bci => Sys2Proof.Machine.execBci s
  | .bcd => Sys2Proof.Machine.execBcd s
  | .bcir => Sys2Proof.Machine.execBcir s
  | .bcdr => Sys2Proof.Machine.execBcdr s
  | .addw wd ws => Sys2Proof.Machine.execAddw wd ws s
  | .adcw wd ws => Sys2Proof.Machine.execAdcw wd ws s
  | .sbcw wd ws => Sys2Proof.Machine.execSbcw wd ws s
  | .xchw wa wb => Sys2Proof.Machine.execXchw wa wb s
  | .bsinit => Sys2Proof.Machine.execBsinit s
  | .putbit b => Sys2Proof.Machine.execPutbit b s
  | .putbits n v => Sys2Proof.Machine.execPutbits n v s
  | .putbyte v => Sys2Proof.Machine.execPutbyte v s
  | .flush => Sys2Proof.Machine.execFlush s

end Sys2Proof.Machine
end

