-- ==== Sys2Proof/Machine/Fetch.lean ====
section
/-! DEFINITION. Instruction fetch (rules R62, R66, R103) and its checks in the order of rule R233. -/

namespace Sys2Proof.Machine

/-- What `Fetch(a)` finds (rule R66). -/
inductive FetchedByte where
  | byte (v : Byte)
  /-- `a >= PROG_SIZE`: `FetchOutOfRange`. -/
  | outOfRange
  /-- A byte below `PROG_SIZE` that nothing loaded (93 U4, log 4). -/
  | unloaded
deriving DecidableEq, Repr

/-- What fetching several bytes finds: all of them, or the first that cannot be had. -/
inductive FetchedBytes where
  | bytes (vs : List Byte)
  | outOfRange
  | unloaded (a : Word)
deriving DecidableEq, Repr

/-- What the fetch and decode of an instruction finds. -/
inductive Fetched where
  | instr (i : Instr)
  /-- A hardware fault, raised before any effect (rule R233). -/
  | fault (k : McuFault)
  /-- A byte that nothing loaded (log 4). -/
  | unloaded (a : Word)
deriving DecidableEq, Repr

/-- `Fetch(a)` (rule R66). -/
def State.fetchByte (s : State) (a : Word) : FetchedByte :=
  if s.params.progSize ≤ a.toNat then .outOfRange
  else
    match Memory.find a.toNat s.prog with
    | some v => .byte v
    | none => .unloaded

/-- `n` bytes fetched one by one in address order, addresses modulo 2^16 (rules R26, R66). -/
def State.fetchBytes (s : State) : Nat → Word → FetchedBytes
  | 0, _ => .bytes []
  | n + 1, a =>
    match s.fetchByte a with
    | .outOfRange => .outOfRange
    | .unloaded => .unloaded a
    | .byte v =>
      match s.fetchBytes n (a + 1#16) with
      | .outOfRange => .outOfRange
      | .unloaded b => .unloaded b
      | .bytes vs => .bytes (v :: vs)

/-- The decode of the bytes fetched; a rejection is `IllegalInstruction` (rules R102, R231). -/
def decodeFetched (bs : List Byte) : Fetched :=
  match decodeMcu bs with
  | .instr i _ => .instr i
  | .reject _ => .fault .illegalInstruction

/-- The bytes after byte 0, as many as byte 0 calls for, and their decode (rule R103). -/
def State.fetchRest (s : State) (b0 : Byte) (len : Nat) : Fetched :=
  match s.fetchBytes (len - 1) (s.mcu.pc + 1#16) with
  | .outOfRange => .fault .fetchOutOfRange
  | .unloaded a => .unloaded a
  | .bytes vs => decodeFetched (b0 :: vs)

/-- The fetch and decode of the instruction at `pc` (rule R103), checks 1 to 4 of rule R233. -/
def State.fetchInstr (s : State) : Fetched :=
  match s.fetchByte s.mcu.pc with
  | .outOfRange => .fault .fetchOutOfRange
  | .unloaded => .unloaded s.mcu.pc
  | .byte b0 =>
    match mcuLength b0 with
    | none => .fault .illegalInstruction
    | some len => s.fetchRest b0 len

/-- Bytes put into the program store from an address on, `PROG_SIZE` being raised where it is too small to
hold them. -/
def State.placeBytes : List Byte → Word → State → State
  | [], _, s => s
  | v :: vs, a, s =>
    State.placeBytes vs (a + 1#16)
      { s with
        prog := Memory.put a.toNat v s.prog
        params := { s.params with progSize := max s.params.progSize (a.toNat + 1) } }

/-- An instruction's words stored where the next step takes its instruction from: bytes at `pc` with the MCU
running and moving next, or a command word as the host's next transaction (log 3). -/
def State.placeCode (s : State) (code : Code) : State :=
  match code with
  | .command w => { s with inbox := .host (.bseCmd w) :: s.inbox }
  | .bytes bs =>
    match s.inbox with
    | [] => (State.placeBytes bs s.mcu.pc s).setRun .running
    | m :: rest => { (State.placeBytes bs s.mcu.pc s).setRun .running with inbox := .mcu :: m :: rest }

end Sys2Proof.Machine
end

