-- ==== Sys2Proof/Machine/HostPort.lean ====
section
/-! DEFINITION. The host's transactions at transaction level (rules R40 to R45, R260, R263), all but the
execution of a BSE command. A refused transaction changes nothing but the reply. -/

namespace Sys2Proof.Machine

/-! ## Codes of the host registers -/

/-- `STATE`, M0 (rule R40). -/
def RunState.code : RunState → BitVec 2
  | .stopped => 0#2
  | .running => 1#2
  | .halted => 2#2
  | .faulted => 3#2

/-- `FAULT`, M1 (rules R41, R231). -/
def faultCode : Option McuFault → BitVec 3
  | none => 0#3
  | some .illegalInstruction => 1#3
  | some .fetchOutOfRange => 2#3
  | some .stackOverflow => 3#3
  | some .stackUnderflow => 4#3
  | some .softwareError => 5#3

/-- `BFAULT`, B0 (rules R44, R239). -/
def bfaultCode : Option BseFault → BitVec 2
  | none => 0#2
  | some .badCommand => 1#2
  | some .outputFull => 2#2

/-- The general register behind host register M8 to M15 (rule R43). -/
def hostGpr (m : Nat) : Option Reg :=
  if 8 ≤ m ∧ m ≤ 15 then some (.ofNum (BitVec.ofNat 3 (m - 8))) else none

/-- The value of host register `m`, for M1 to M5 and M8 to M15 (rules R41 to R43, R263). -/
def State.hostReadReg (s : State) (m : Nat) : Option Nat :=
  match m with
  | 1 => some (faultCode s.mcu.fault).toNat
  | 2 => some s.mcu.fpc.toNat
  | 3 => some s.mcu.pc.toNat
  | 4 => some s.sd
  | 5 => some s.mcu.flags.pack.toNat
  | k => (hostGpr k).map (fun r => (s.readReg r).toNat)

/-- The state after a write of host register `m`, for M3, M5 and M8 to M15 (rules R43, R263); an 8-bit register
takes the low byte of the value (log 8). -/
def State.hostWriteReg (s : State) (m : Nat) (v : Word) : Option State :=
  match m with
  | 3 => some (s.setPc v)
  | 5 => some (s.setFlags (Flags.unpack (lowByte v)))
  | k => (hostGpr k).map (fun r => s.writeReg r (lowByte v))

/-- The value of host register `b`, for B0 to B4 (rules R44, R45, R263). -/
def State.bseReadReg (s : State) (b : Nat) : Option Nat :=
  match b with
  | 0 => some (bfaultCode s.bse.bfault).toNat
  | 1 => some s.bse.cnt.toNat
  | 2 => some s.bse.acc.toNat
  | 3 => some s.bse.slot
  | 4 => some s.bse.wp
  | _ => none

/-! ## Replies -/

/-- What the host gets back. -/
def State.answer (s : State) (r : Reply) : State := { s with reply := r }

/-- A read's value, or a refusal. -/
def replyOf : Option Nat → Reply
  | some n => .value n
  | none => .refused

/-- A transaction allowed in STOPPED only. -/
def State.whenStopped (s : State) (t : Option State) : State :=
  match s.mcu.run, t with
  | .stopped, some t => t.answer .nothing
  | .stopped, none => s.answer .refused
  | .running, _ => s.answer .refused
  | .halted, _ => s.answer .refused
  | .faulted, _ => s.answer .refused

/-- A read allowed in STOPPED, HALTED and FAULTED. -/
def State.readUnlessRunning (s : State) (v : Option Nat) : State :=
  match s.mcu.run with
  | .running => s.answer .refused
  | .stopped => s.answer (replyOf v)
  | .halted => s.answer (replyOf v)
  | .faulted => s.answer (replyOf v)

/-! ## The transactions -/

/-- RESET (rule R260): every piece of state at the value of rule R48; the parameters stay, and so do the moves
still to come and the count of free values, which are no state of the block. -/
def State.hostReset (s : State) : State :=
  { s with prog := [], mcu := Mcu.reset, bse := Bse.reset, reply := .nothing }

/-- LOADPROG a, v. -/
def State.hostLoadProg (s : State) (a : Nat) (v : Byte) : State :=
  s.whenStopped (if a < s.params.progSize then some { s with prog := Memory.put a v s.prog } else none)

/-- WRITERAM a, v. -/
def State.hostWriteRam (s : State) (a : Word) (v : Byte) : State := s.whenStopped (some (s.writeRam a v))

/-- WRITEREG m, v. -/
def State.hostSetReg (s : State) (m : Nat) (v : Word) : State := s.whenStopped (s.hostWriteReg m v)

/-- START. -/
def State.hostStart (s : State) : State := s.whenStopped (some (s.setRun .running))

/-- READSTATE. -/
def State.hostReadState (s : State) : State := s.answer (.value s.mcu.run.code.toNat)

/-- READREG m. -/
def State.hostGetReg (s : State) (m : Nat) : State := s.readUnlessRunning (s.hostReadReg m)

/-- READRAM a. -/
def State.hostReadRam (s : State) (a : Word) : State := s.readUnlessRunning (some (s.readRam a).toNat)

/-- READSTK i, refused when `i >= SD`. -/
def State.hostReadStk (s : State) (i : Nat) : State :=
  s.readUnlessRunning ((s.stkEntry i).map BitVec.toNat)

/-- BSEREAD b. -/
def State.hostBseRead (s : State) (b : Nat) : State := s.answer (replyOf (s.bseReadReg b))

/-- A read of an output position whose byte the spec does not name (93 U2): a free value, a new one for each
such read (log 5). -/
def State.unspecifiedRead (s : State) : State :=
  { s with
    reply := .value (Config.unspecifiedOut s.freeCount).toNat
    freeCount := s.freeCount + 1 }

/-- Position `i` is claimed by the pending byte and not yet written (rule R137). -/
def Bse.pendingAt (e : Bse) (i : Nat) : Bool := e.cnt != 0#3 && i == e.slot

/-- BSEOUT i, refused when `i >= WP` (rules R137, R263). -/
def State.hostBseOut (s : State) (i : Nat) : State :=
  if s.bse.wp ≤ i then s.answer .refused
  else if s.bse.pendingAt i then s.unspecifiedRead
  else
    match s.bse.outAt i with
    | some v => s.answer (.value v.toNat)
    | none => s.unspecifiedRead

end Sys2Proof.Machine
end

