-- ==== Sys2Proof/Machine/Cycle.lean ====
section
/-! DEFINITION. One move of one agent: an MCU step, a BSE command, a host transaction (rules R2, R263, R272). -/

namespace Sys2Proof.Machine

/-- The MCU's step while RUNNING (rules R103, R232): fetch, decode and execute, or raise the fetch's fault. -/
def mcuCycle (s : State) : Result :=
  match s.fetchInstr with
  | .instr i => exec i s
  | .fault k => .next (s.raise k)
  | .unloaded a => .fault (.unloadedProgramByte a)

/-- The MCU's step (rule R272): the identity unless `STATE` is RUNNING. -/
def mcuMove (s : State) : Result :=
  match s.mcu.run with
  | .running => mcuCycle s
  | .stopped => .next s
  | .halted => .next s
  | .faulted => .next s

/-- BSECMD w (rules R240, R263): the command's rule, or `BadCommand`. -/
def bseCommand (w : Word) (s : State) : Result :=
  match decodeBse w with
  | .instr i _ => exec i s
  | .reject _ => .next (s.badCommand (cmdOp w))

/-- One host transaction (rule R263). -/
def hostMove (t : HostOp) (s : State) : Result :=
  match t with
  | .reset => .next s.hostReset
  | .loadProg a v => .next (s.hostLoadProg a v)
  | .writeRam a v => .next (s.hostWriteRam a v)
  | .writeReg m v => .next (s.hostSetReg m v)
  | .start => .next s.hostStart
  | .readState => .next s.hostReadState
  | .readReg m => .next (s.hostGetReg m)
  | .readRam a => .next (s.hostReadRam a)
  | .readStk i => .next (s.hostReadStk i)
  | .bseCmd w => bseCommand w (s.answer .nothing)
  | .bseRead b => .next (s.hostBseRead b)
  | .bseOut i => .next (s.hostBseOut i)

/-- One agent's move. -/
def makeMove (m : Move) (s : State) : Result :=
  match m with
  | .mcu => mcuMove s
  | .host t => hostMove t s

/-- The next move: the first of the inbox, which is taken out, or the MCU's when the inbox is empty (log 2). -/
def nextMove (s : State) : Result :=
  match s.inbox with
  | [] => mcuMove s
  | m :: rest => makeMove m { s with inbox := rest }

end Sys2Proof.Machine
end

