-- ==== Sys2Proof/Machine/Step.lean ====
section
/-! DEFINITION. The block's step, and the state in which the next step runs a given instruction. -/

namespace Sys2Proof.Machine

/-- One step of the block: the next agent's move. -/
def step (s : State) : Host.Outcome State Fault Refusal := nextMove s

/-- `s` with an instruction of the opcode table stored where `step` takes its next instruction from
(logs 3, 11). A word that is no instruction changes nothing. -/
def State.withFetchWord (s : State) (nbits w : Nat) : State :=
  match tableCode nbits w with
  | some code => s.placeCode code
  | none => s

end Sys2Proof.Machine
end

