-- ==== Sys2Proof/Machine/Pseudo.lean ====
section
/-! DEFINITION. The pseudo-instructions and pseudo-commands: expansions into instructions, which the hardware
does not know (rules R116 to R120), and the execution of a list of instructions. -/

namespace Sys2Proof.Machine

/-- `LDW Wd,Ws` (rule R116). -/
def pseudoLdw (d s : Pair) : List Instr := [.ldRR (pairHi d) (pairHi s), .ldRR (pairLo d) (pairLo s)]

/-- `CLRW Wp` (rule R116). -/
def pseudoClrw (p : Pair) : List Instr := [.ldWNN p 0x0000#16]

/-- `TSTW Wp` (rule R116). -/
def pseudoTstw (p : Pair) : List Instr := [.incw p, .decw p]

/-- `SLW Wp` (rule R116). -/
def pseudoSlw (p : Pair) : List Instr := [.addw p p]

/-- `RLW Wp` (rule R116). -/
def pseudoRlw (p : Pair) : List Instr := [.adcw p p]

/-- `for j = q-1 down to 0: PUTBITS 8, v[8j+7 : 8j]` (rule R117). -/
def putWholeBytes (v : Nat) : Nat → List Instr
  | 0 => []
  | q + 1 => .putbits 8#4 (BitVec.ofNat 8 (v / 2 ^ (8 * q))) :: putWholeBytes v q

/-- `PUTCODE len,v` (rule R117). -/
def pseudoPutcode (len v : Nat) : List Instr :=
  (if len % 8 = 0 then []
   else [.putbits (BitVec.ofNat 4 (len % 8)) (BitVec.ofNat 8 (v / 2 ^ (len - len % 8) % 2 ^ (len % 8)))])
    ++ putWholeBytes v (len / 8)

/-- The tiers of `PUTGAMMA`: `for i = k-1 down to 0: PUTBIT 1, PUTBIT v[i]` (rule R118). -/
def gammaTiers (v : Nat) : Nat → List Instr
  | 0 => []
  | i + 1 => .putbit true :: .putbit (v.testBit i) :: gammaTiers v i

/-- `PUTGAMMA v`, for `1 <= v <= 65535` (rule R118). -/
def pseudoPutgamma (v : Nat) : List Instr := gammaTiers v (Nat.log2 v) ++ [.putbit false]

/-- `PUTEND` (rule R119). -/
def pseudoPutend : List Instr := pseudoPutcode 34 0x3FFFFFFFF ++ [.flush]

/-- `LITERAL v` (rule R120). -/
def pseudoLiteral (v : Byte) : List Instr := [.putbit false, .putbyte v]

/-- The instructions of a list executed one after another, up to the first that answers no next state. -/
def execAll : List Instr → State → Result
  | [], s => .next s
  | i :: is, s =>
    match exec i s with
    | .next t => execAll is t
    | .fault r => .fault r
    | .refused r => .refused r

end Sys2Proof.Machine
end

