-- ==== Sys2Proof/Safety.lean ====
section
/-! DEFINITION. The terms claims use: the invariant of the block, frames, runs with fuel. -/

namespace Sys2Proof.Machine

/-! ## The invariant -/

/-- The bits of `ACC` not yet filled are zero (rule R46 (b)). -/
abbrev Bse.accClear (e : Bse) : Prop := ∀ i < 8 - e.cnt.toNat, e.acc.getLsbD i = false

/-- Every claimed output position but the pending one has been written (rules R137, R266). -/
abbrev Bse.outWritten (e : Bse) : Prop :=
  ∀ i < e.wp, e.pendingAt i = true ∨ (e.outAt i).isSome = true

/-- The BSE's invariants (rule R46), and the canonical form of `OUT`. -/
abbrev Bse.wf (outCap : Nat) (e : Bse) : Prop :=
  e.accClear ∧ e.wp ≤ outCap ∧ (e.cnt ≠ 0#3 → e.slot < e.wp) ∧ Memory.wfBelow outCap e.out ∧ e.outWritten

/-- `FAULT` is set exactly in FAULTED, and `FPC` then holds `pc`; before a fault `FPC` is 0
(rules R41, R42, R48, R232). -/
abbrev Mcu.faultWf (m : Mcu) : Prop :=
  (m.run = .faulted ↔ m.fault ≠ none) ∧ (m.run = .faulted → m.fpc = m.pc) ∧ (m.run ≠ .faulted → m.fpc = 0x0000#16)

/-- The invariant of the block: the parameters are in their ranges, each memory has its canonical form, the
stack is within `STACK_DEPTH`, the fault registers agree with the run state, and rule R46 holds. -/
abbrev BlockInv (s : State) : Prop :=
  s.params.wf ∧ Memory.wfBelow s.params.progSize s.prog ∧ Memory.wf s.mcu.ram ∧ s.sd ≤ s.params.stackDepth
    ∧ s.mcu.faultWf ∧ Bse.wf s.params.outCap s.bse

/-! ## Frames -/

/-- Nothing outside the MCU changed: the parameters, the program store, the BSE, and the host's side. -/
abbrev SameOutsideMcu (s t : State) : Prop :=
  t.params = s.params ∧ t.prog = s.prog ∧ t.bse = s.bse ∧ t.inbox = s.inbox ∧ t.reply = s.reply
    ∧ t.freeCount = s.freeCount

/-- The run state and the fault registers did not change. -/
abbrev SameRunRegs (s t : State) : Prop :=
  t.mcu.run = s.mcu.run ∧ t.mcu.fault = s.mcu.fault ∧ t.mcu.fpc = s.mcu.fpc

/-- Every byte of RAM reads as before. -/
abbrev SameRam (s t : State) : Prop := ∀ a : Word, t.readRam a = s.readRam a

/-- Every byte of RAM but the one at `a` reads as before. -/
abbrev SameRamBut (a : Word) (s t : State) : Prop := ∀ b : Word, b ≠ a → t.readRam b = s.readRam b

/-- Every general register reads as before, but those listed. -/
abbrev SameRegsBut (ds : List Reg) (s t : State) : Prop := ∀ r : Reg, r ∉ ds → t.readReg r = s.readReg r

/-- Both registers of a pair. -/
abbrev halves (p : Pair) : List Reg := [pairHi p, pairLo p]

/-- `pc` moved on by `len` bytes, modulo 2^16 (rules R26, R27). -/
abbrev PcMoved (len : Nat) (s t : State) : Prop := t.mcu.pc.toNat = (s.mcu.pc.toNat + len) % 65536

/-- The frame of an MCU instruction that writes the registers `ds`, flags, RAM and `pc` at most: no other
register, no stack entry, no run or fault register, nothing outside the MCU. -/
abbrev RegFrame (ds : List Reg) (s t : State) : Prop :=
  SameRegsBut ds s t ∧ t.mcu.stk = s.mcu.stk ∧ SameRunRegs s t ∧ SameOutsideMcu s t

/-- The frame of an MCU instruction that writes the registers `ds`, stack entries and `pc` at most. -/
abbrev StkFrame (ds : List Reg) (s t : State) : Prop :=
  SameRegsBut ds s t ∧ t.mcu.flags = s.mcu.flags ∧ SameRam s t ∧ SameRunRegs s t ∧ SameOutsideMcu s t

/-- MCU fault entry, spelled out (rule R232): `FAULT`, `FPC` and `STATE` are written and nothing else. -/
abbrev FaultEntry (k : McuFault) (s t : State) : Prop :=
  t = { s with mcu := { s.mcu with fault := some k, fpc := s.mcu.pc, run := .faulted } }

/-- BSE fault entry, spelled out (rule R240): `BFAULT` is written and nothing else. -/
abbrev BseFaultEntry (k : BseFault) (s t : State) : Prop := t = { s with bse := { s.bse with bfault := some k } }

/-- Only BSE state changed: the MCU, the parameters, the program store and the host's side are as before. -/
abbrev SameOutsideBse (s t : State) : Prop :=
  t.params = s.params ∧ t.prog = s.prog ∧ t.mcu = s.mcu ∧ t.inbox = s.inbox ∧ t.reply = s.reply
    ∧ t.freeCount = s.freeCount

/-! ## Flags in terms of numbers (rule R8) -/

/-- `Z` says that a result is 0 and `S` that its high bit is set. -/
abbrev ZeroSign {n : Nat} (res : BitVec n) (f : Flags) : Prop :=
  (f.z = true ↔ res.toNat = 0) ∧ (f.s = true ↔ 2 ^ (n - 1) ≤ res.toNat)

/-- `PV` says that an exact signed result does not fit in `n` bits. -/
abbrev SignedOverflow (n : Nat) (exact : Int) (f : Flags) : Prop :=
  f.pv = true ↔ exact < -(2 : Int) ^ (n - 1) ∨ (2 : Int) ^ (n - 1) ≤ exact

/-- `PV` says that a byte has an even number of 1 bits. -/
abbrev EvenParity (res : Byte) (f : Flags) : Prop :=
  f.pv = true ↔ ((List.range 8).filter (fun i => res.getLsbD i)).length % 2 = 0

/-- Which flags an instruction may write, by the table of rule R29. -/
def flagMask : Instr → Flags
  | .inc _ | .dec _ | .incw _ | .decw _ => ⟨false, true, true, true⟩
  | .rl _ | .rr _ | .shl _ | .shr _ => ⟨true, true, true, true⟩
  | .addw _ _ | .adcw _ _ | .sbcw _ _ => ⟨true, true, true, true⟩
  | .bit _ _ => ⟨false, true, false, false⟩
  | .res _ _ => ⟨false, false, false, false⟩
  | .ldRN _ _ | .ldWNN _ _ | .ldRMem _ _ | .ldMemR _ _ | .ldRR _ _ => ⟨false, false, false, false⟩
  | .bci | .bcd | .bcir | .bcdr => ⟨false, false, false, false⟩
  | .push _ | .pop _ | .xts _ | .xchw _ _ | .xchb _ _ => ⟨false, false, false, false⟩
  | .jp _ | .call _ | .jpCc _ _ | .callCc _ _ | .ret | .retCc _ => ⟨false, false, false, false⟩
  | .nop | .halt | .err => ⟨false, false, false, false⟩
  | .bsinit | .putbit _ | .putbits _ _ | .putbyte _ | .flush => ⟨false, false, false, false⟩

/-- Whether an instruction is a control transfer that is taken under the flags `f` (rule R27). -/
def transferTaken (f : Flags) : Instr → Bool
  | .jp _ | .call _ | .ret => true
  | .jpCc cc _ | .callCc cc _ | .retCc cc => condHolds cc f
  | .nop | .halt | .err => false
  | .bit _ _ | .res _ _ | .xchb _ _ => false
  | .ldRN _ _ | .ldWNN _ _ | .ldRMem _ _ | .ldMemR _ _ | .ldRR _ _ => false
  | .inc _ | .dec _ | .incw _ | .decw _ => false
  | .rl _ | .rr _ | .shl _ | .shr _ => false
  | .push _ | .pop _ | .xts _ | .xchw _ _ => false
  | .bci | .bcd | .bcir | .bcdr => false
  | .addw _ _ | .adcw _ _ | .sbcw _ _ => false
  | .bsinit | .putbit _ | .putbits _ _ | .putbyte _ | .flush => false

/-! ## Encodings in terms of numbers -/

/-- The ten illegal values of byte 0 (rule R102). -/
def illegalByte0s : List Byte :=
  [0x2E#8, 0x2F#8, 0xB4#8, 0xB5#8, 0xB6#8, 0xB7#8, 0xBC#8, 0xBD#8, 0xBE#8, 0xBF#8]

/-- The sub-bytes that rule R231 names: byte 0 = 0x06 and byte 1 bit 7 = 1; byte 0 = 0x07 and byte 1 bits 7:6 not
00; byte 0 = 0x2C or 0x2D and byte 1 bits 7:5 not 000. -/
abbrev illegalSub (b0 b1 : Byte) : Prop :=
  (b0 = 0x06#8 ∧ 128 ≤ b1.toNat) ∨ (b0 = 0x07#8 ∧ 64 ≤ b1.toNat) ∨ ((b0 = 0x2C#8 ∨ b0 = 0x2D#8) ∧ 32 ≤ b1.toNat)

/-- The illegal values of a command word's fields `op`, `n`, `d`, read as numbers (rule R112). -/
abbrev illegalFields (op n d : Nat) : Prop :=
  op = 0 ∨ 6 ≤ op ∨ (op = 1 ∧ (n ≠ 0 ∨ d ≠ 0)) ∨ (op = 2 ∧ (n ≠ 0 ∨ 2 ≤ d)) ∨ (op = 3 ∧ (n = 0 ∨ 8 < n))
    ∨ (op = 4 ∧ n ≠ 0) ∨ (op = 5 ∧ (n ≠ 0 ∨ d ≠ 0))

/-- The illegal command words, the fields standing at bits 15:12, 11:8 and 7:0 (rules R110, R112). -/
abbrev illegalWord (w : Word) : Prop :=
  illegalFields (w.toNat / 4096) (w.toNat / 256 % 16) (w.toNat % 256)

/-! ## Runs -/

/-- How a run of the MCU with fuel ends (rules R220, R264). -/
inductive RunEnd where
  /-- HALTED or FAULTED: the run's result is the whole final state. -/
  | final (s : State)
  /-- The MCU was never started. -/
  | notStarted (s : State)
  /-- The fuel ran out; no outcome of the hardware. -/
  | outOfFuel (s : State)
  /-- The model stopped (log 4). -/
  | stop (r : Fault)
  /-- An instruction without a meaning was met. -/
  | noMeaning (r : Refusal)
deriving DecidableEq, Repr

/-- A run of the MCU alone, with fuel (rule R220). -/
def runMcu : Nat → State → RunEnd
  | fuel, s =>
    match s.mcu.run, fuel with
    | .halted, _ => .final s
    | .faulted, _ => .final s
    | .stopped, _ => .notStarted s
    | .running, 0 => .outOfFuel s
    | .running, fuel + 1 =>
      match mcuMove s with
      | .next t => runMcu fuel t
      | .fault r => .stop r
      | .refused r => .noMeaning r

/-- The bits that a command sends through `PutBit`, in order (rules R131 to R133). -/
def sentBits : Instr → List Bool
  | .putbit b => [b]
  | .putbits n v => (List.range n.toNat).reverse.map (fun i => v.getLsbD i)
  | .bsinit | .putbyte _ | .flush => []
  | .nop | .halt | .err | .ret | .jp _ | .call _ => []
  | .bit _ _ | .res _ _ | .xchb _ _ => []
  | .jpCc _ _ | .callCc _ _ | .retCc _ => []
  | .ldRN _ _ | .ldWNN _ _ | .ldRMem _ _ | .ldMemR _ _ | .ldRR _ _ => []
  | .inc _ | .dec _ | .incw _ | .decw _ => []
  | .rl _ | .rr _ | .shl _ | .shr _ => []
  | .push _ | .pop _ | .xts _ | .xchw _ _ => []
  | .bci | .bcd | .bcir | .bcdr => []
  | .addw _ _ | .adcw _ _ | .sbcw _ _ => []

/-- A command that only sends bits: `PUTBIT`, or `PUTBITS` with a legal count. -/
def sendsBits : Instr → Bool
  | .putbit _ => true
  | .putbits n _ => putbitsCountOk n
  | .bsinit | .putbyte _ | .flush => false
  | .nop | .halt | .err | .ret | .jp _ | .call _ => false
  | .bit _ _ | .res _ _ | .xchb _ _ => false
  | .jpCc _ _ | .callCc _ _ | .retCc _ => false
  | .ldRN _ _ | .ldWNN _ _ | .ldRMem _ _ | .ldMemR _ _ | .ldRR _ _ => false
  | .inc _ | .dec _ | .incw _ | .decw _ => false
  | .rl _ | .rr _ | .shl _ | .shr _ => false
  | .push _ | .pop _ | .xts _ | .xchw _ _ => false
  | .bci | .bcd | .bcir | .bcdr => false
  | .addw _ _ | .adcw _ _ | .sbcw _ _ => false

/-- What a command costs (rule R136 (e)): 1 for each bit sent, 8 for each `PUTBYTE`. -/
def bitCost : Instr → Nat
  | .putbyte _ => 8
  | i => (sentBits i).length

end Sys2Proof.Machine
end

