-- ==== Sys2Proof/Certificates/Slice0/Obligations.lean ====
section
/-! DEFINITION. The statements for the provers, family by family. Each docstring names the rule of spec/ that a
statement formalises, or says that it is derived from rules or is the model's own. -/

open Sys2Proof Sys2Proof.Machine

/-! ## Load and move (41_mcu_load_move.md) -/

/-- R150, R151: `LD Rd,Rs` and `LD Rd,#n` complete, write `Rd` alone, and move `pc` on by their length. -/
def Obligations.LoadRegisterForms : Prop :=
  ∀ (s : State) (rd rs : Reg) (n : Byte),
    (∃ t, exec (.ldRR rd rs) s = .next t ∧ t.readReg rd = s.readReg rs ∧ PcMoved 1 s t
      ∧ RegFrame [rd] s t ∧ t.mcu.flags = s.mcu.flags ∧ SameRam s t)
    ∧ (∃ t, exec (.ldRN rd n) s = .next t ∧ t.readReg rd = n ∧ PcMoved 2 s t
      ∧ RegFrame [rd] s t ∧ t.mcu.flags = s.mcu.flags ∧ SameRam s t)

/-- R152 and R21: `LD Wp,#nn` puts the high byte of `nn` into the even register and the low byte into the odd
one, and writes nothing else but `pc`. -/
def Obligations.LoadPairImmediate : Prop :=
  ∀ (s : State) (wp : Pair) (nn : Word),
    ∃ t, exec (.ldWNN wp nn) s = .next t ∧ (t.readReg (pairHi wp)).toNat = nn.toNat / 256
      ∧ (t.readReg (pairLo wp)).toNat = nn.toNat % 256 ∧ t.readPair wp = nn ∧ PcMoved 3 s t
      ∧ RegFrame (halves wp) s t ∧ t.mcu.flags = s.mcu.flags ∧ SameRam s t

/-- R153, R154: `LD Rd,(Wp)` reads the byte at the pair's old value, also when `Rd` is half of `Wp`; `LD (Wp),Rs`
writes one byte of RAM, at the address in the pair, and no register. -/
def Obligations.LoadStoreRam : Prop :=
  ∀ (s : State) (rd rs : Reg) (wp : Pair),
    (∃ t, exec (.ldRMem rd wp) s = .next t ∧ t.readReg rd = s.readRam (s.readPair wp) ∧ PcMoved 2 s t
      ∧ RegFrame [rd] s t ∧ t.mcu.flags = s.mcu.flags ∧ SameRam s t)
    ∧ (∃ t, exec (.ldMemR wp rs) s = .next t ∧ t.readRam (s.readPair wp) = s.readReg rs
      ∧ SameRamBut (s.readPair wp) s t ∧ PcMoved 2 s t ∧ RegFrame [] s t ∧ t.mcu.flags = s.mcu.flags)

/-! ## Increment and decrement (42_mcu_inc_dec.md) -/

/-- R160, R161, R183: `INC Rr` and `DEC Rr` wrap modulo 2^8; `Z` and `S` come from the result, `PV` is the signed
overflow of the exact result, `C` is kept. -/
def Obligations.IncDecRegister : Prop :=
  ∀ (s : State) (r : Reg),
    (∃ t, exec (.inc r) s = .next t ∧ (t.readReg r).toNat = ((s.readReg r).toNat + 1) % 256
      ∧ ZeroSign (t.readReg r) t.mcu.flags ∧ SignedOverflow 8 ((s.readReg r).toInt + 1) t.mcu.flags
      ∧ t.mcu.flags.c = s.mcu.flags.c ∧ PcMoved 1 s t ∧ RegFrame [r] s t ∧ SameRam s t)
    ∧ (∃ t, exec (.dec r) s = .next t ∧ (t.readReg r).toNat = ((s.readReg r).toNat + 255) % 256
      ∧ ZeroSign (t.readReg r) t.mcu.flags ∧ SignedOverflow 8 ((s.readReg r).toInt - 1) t.mcu.flags
      ∧ t.mcu.flags.c = s.mcu.flags.c ∧ PcMoved 1 s t ∧ RegFrame [r] s t ∧ SameRam s t)

/-- R162, R163, R183: the same for the pairs, modulo 2^16; the source's vector (95, S2) is the case 0xFFFF. -/
def Obligations.IncDecPair : Prop :=
  ∀ (s : State) (p : Pair),
    (∃ t, exec (.incw p) s = .next t ∧ (t.readPair p).toNat = ((s.readPair p).toNat + 1) % 65536
      ∧ ZeroSign (t.readPair p) t.mcu.flags ∧ SignedOverflow 16 ((s.readPair p).toInt + 1) t.mcu.flags
      ∧ t.mcu.flags.c = s.mcu.flags.c ∧ PcMoved 1 s t ∧ RegFrame (halves p) s t ∧ SameRam s t)
    ∧ (∃ t, exec (.decw p) s = .next t ∧ (t.readPair p).toNat = ((s.readPair p).toNat + 65535) % 65536
      ∧ ZeroSign (t.readPair p) t.mcu.flags ∧ SignedOverflow 16 ((s.readPair p).toInt - 1) t.mcu.flags
      ∧ t.mcu.flags.c = s.mcu.flags.c ∧ PcMoved 1 s t ∧ RegFrame (halves p) s t ∧ SameRam s t)

/-! ## Rotates, shifts, bits (43_mcu_rotate_shift_bit.md) -/

/-- R170, R171: the rotates move every bit by one place through `C`; `PV` is even parity. -/
def Obligations.RotateThroughCarry : Prop :=
  ∀ (s : State) (r : Reg),
    (∃ t, exec (.rl r) s = .next t ∧ (∀ i < 7, (t.readReg r).getLsbD (i + 1) = (s.readReg r).getLsbD i)
      ∧ (t.readReg r).getLsbD 0 = s.mcu.flags.c ∧ t.mcu.flags.c = (s.readReg r).getLsbD 7
      ∧ ZeroSign (t.readReg r) t.mcu.flags ∧ EvenParity (t.readReg r) t.mcu.flags
      ∧ PcMoved 1 s t ∧ RegFrame [r] s t ∧ SameRam s t)
    ∧ (∃ t, exec (.rr r) s = .next t ∧ (∀ i < 7, (t.readReg r).getLsbD i = (s.readReg r).getLsbD (i + 1))
      ∧ (t.readReg r).getLsbD 7 = s.mcu.flags.c ∧ t.mcu.flags.c = (s.readReg r).getLsbD 0
      ∧ ZeroSign (t.readReg r) t.mcu.flags ∧ EvenParity (t.readReg r) t.mcu.flags
      ∧ PcMoved 1 s t ∧ RegFrame [r] s t ∧ SameRam s t)

/-- R172, R173: the shifts double or halve the value; `C` is the bit moved out, `PV` is even parity. -/
def Obligations.LogicalShifts : Prop :=
  ∀ (s : State) (r : Reg),
    (∃ t, exec (.shl r) s = .next t ∧ (t.readReg r).toNat = 2 * (s.readReg r).toNat % 256
      ∧ (t.mcu.flags.c = true ↔ 128 ≤ (s.readReg r).toNat)
      ∧ ZeroSign (t.readReg r) t.mcu.flags ∧ EvenParity (t.readReg r) t.mcu.flags
      ∧ PcMoved 1 s t ∧ RegFrame [r] s t ∧ SameRam s t)
    ∧ (∃ t, exec (.shr r) s = .next t ∧ (t.readReg r).toNat = (s.readReg r).toNat / 2
      ∧ (t.mcu.flags.c = true ↔ (s.readReg r).toNat % 2 = 1)
      ∧ ZeroSign (t.readReg r) t.mcu.flags ∧ EvenParity (t.readReg r) t.mcu.flags
      ∧ PcMoved 1 s t ∧ RegFrame [r] s t ∧ SameRam s t)

/-- R171, corner cases: `RR` undoes `RL`, register and carry, and the reverse. -/
def Obligations.RotatesUndoEachOther : Prop :=
  ∀ (s : State) (r : Reg),
    (∃ t, execAll [.rl r, .rr r] s = .next t ∧ t.mcu.regs = s.mcu.regs ∧ t.mcu.flags.c = s.mcu.flags.c)
    ∧ (∃ t, execAll [.rr r, .rl r] s = .next t ∧ t.mcu.regs = s.mcu.regs ∧ t.mcu.flags.c = s.mcu.flags.c)

/-- R170, corner cases: nine `RL`s restore register and carry; so do nine `RR`s (95, V3). -/
def Obligations.NineRotatesRestore : Prop :=
  ∀ (s : State) (r : Reg),
    (∃ t, execAll (List.replicate 9 (.rl r)) s = .next t ∧ t.mcu.regs = s.mcu.regs
      ∧ t.mcu.flags.c = s.mcu.flags.c)
    ∧ (∃ t, execAll (List.replicate 9 (.rr r)) s = .next t ∧ t.mcu.regs = s.mcu.regs
      ∧ t.mcu.flags.c = s.mcu.flags.c)

/-- R174: `BIT b,Rr` sets `Z` to the complement of the tested bit and writes nothing else but `pc`. -/
def Obligations.BitTestWritesZOnly : Prop :=
  ∀ (s : State) (b : BitVec 3) (r : Reg),
    ∃ t, exec (.bit b r) s = .next t
      ∧ (t.mcu.flags.z = true ↔ (s.readReg r).toNat / 2 ^ b.toNat % 2 = 0)
      ∧ t.mcu.flags.c = s.mcu.flags.c ∧ t.mcu.flags.s = s.mcu.flags.s ∧ t.mcu.flags.pv = s.mcu.flags.pv
      ∧ PcMoved 2 s t ∧ RegFrame [] s t ∧ SameRam s t

/-- R175: `RES b,Rr` clears one bit, keeps the other seven, and writes no flag. -/
def Obligations.ResetBitClearsOneBit : Prop :=
  ∀ (s : State) (b : BitVec 3) (r : Reg),
    ∃ t, exec (.res b r) s = .next t ∧ (t.readReg r).getLsbD b.toNat = false
      ∧ (∀ i < 8, i ≠ b.toNat → (t.readReg r).getLsbD i = (s.readReg r).getLsbD i)
      ∧ t.mcu.flags = s.mcu.flags ∧ PcMoved 2 s t ∧ RegFrame [r] s t ∧ SameRam s t

/-! ## Pair arithmetic (44_mcu_pair_arith.md) -/

/-- R180, R181, R183: the sum modulo 2^16, `C` the unsigned carry out, `PV` the signed overflow of the exact sum;
`ADDW` does not read the old `C`. -/
def Obligations.PairAddition : Prop :=
  ∀ (s : State) (wd ws : Pair),
    (∃ t, exec (.addw wd ws) s = .next t
      ∧ (t.readPair wd).toNat = ((s.readPair wd).toNat + (s.readPair ws).toNat) % 65536
      ∧ (t.mcu.flags.c = true ↔ 65536 ≤ (s.readPair wd).toNat + (s.readPair ws).toNat)
      ∧ ZeroSign (t.readPair wd) t.mcu.flags
      ∧ SignedOverflow 16 ((s.readPair wd).toInt + (s.readPair ws).toInt) t.mcu.flags
      ∧ PcMoved 1 s t ∧ RegFrame (halves wd) s t ∧ SameRam s t)
    ∧ (∃ t, exec (.adcw wd ws) s = .next t
      ∧ (t.readPair wd).toNat
        = ((s.readPair wd).toNat + (s.readPair ws).toNat + s.mcu.flags.c.toNat) % 65536
      ∧ (t.mcu.flags.c = true
        ↔ 65536 ≤ (s.readPair wd).toNat + (s.readPair ws).toNat + s.mcu.flags.c.toNat)
      ∧ ZeroSign (t.readPair wd) t.mcu.flags
      ∧ SignedOverflow 16 ((s.readPair wd).toInt + (s.readPair ws).toInt + s.mcu.flags.c.toNat) t.mcu.flags
      ∧ PcMoved 1 s t ∧ RegFrame (halves wd) s t ∧ SameRam s t)

/-- R182, R183: `SBCW` leaves `(a - b - C) mod 2^16`, `C` the unsigned borrow, `PV` the signed overflow. -/
def Obligations.PairSubtraction : Prop :=
  ∀ (s : State) (wd ws : Pair),
    ∃ t, exec (.sbcw wd ws) s = .next t
      ∧ ((t.readPair wd).toNat : Int)
        = ((s.readPair wd).toNat - (s.readPair ws).toNat - s.mcu.flags.c.toNat : Int) % 65536
      ∧ (t.mcu.flags.c = true
        ↔ (s.readPair wd).toNat < (s.readPair ws).toNat + s.mcu.flags.c.toNat)
      ∧ ZeroSign (t.readPair wd) t.mcu.flags
      ∧ SignedOverflow 16 ((s.readPair wd).toInt - (s.readPair ws).toInt - s.mcu.flags.c.toNat) t.mcu.flags
      ∧ PcMoved 1 s t ∧ RegFrame (halves wd) s t ∧ SameRam s t

/-- R181 and R182, corner cases for d = s: `ADCW Wp,Wp` is a 16-bit rotate left through carry, `SBCW Wp,Wp` spreads
the carry over the pair. -/
def Obligations.PairArithmeticOnItself : Prop :=
  ∀ (s : State) (p : Pair),
    (∃ t, exec (.adcw p p) s = .next t ∧ (t.readPair p).getLsbD 0 = s.mcu.flags.c
      ∧ (∀ i < 15, (t.readPair p).getLsbD (i + 1) = (s.readPair p).getLsbD i)
      ∧ t.mcu.flags.c = (s.readPair p).getLsbD 15)
    ∧ (∃ t, exec (.sbcw p p) s = .next t
      ∧ (t.readPair p).toNat = (if s.mcu.flags.c then 65535 else 0) ∧ t.mcu.flags.c = s.mcu.flags.c
      ∧ t.mcu.flags.z = !s.mcu.flags.c ∧ t.mcu.flags.s = s.mcu.flags.c ∧ t.mcu.flags.pv = false)

/-! ## Block copies (45_mcu_block_copy.md) -/

/-- R190 to R192: one byte goes from the address in `W2` to the address in `W1`; both addresses move by 1, up or
down, and the counter `W0` falls by 1, all modulo 2^16; no flag changes. -/
def Obligations.BlockCopyStep : Prop :=
  ∀ (s : State),
    (∃ t, exec .bci s = .next t ∧ t.readRam (s.readPair .w1) = s.readRam (s.readPair .w2)
      ∧ SameRamBut (s.readPair .w1) s t
      ∧ (t.readPair .w2).toNat = ((s.readPair .w2).toNat + 1) % 65536
      ∧ (t.readPair .w1).toNat = ((s.readPair .w1).toNat + 1) % 65536
      ∧ (t.readPair .w0).toNat = ((s.readPair .w0).toNat + 65535) % 65536
      ∧ t.mcu.flags = s.mcu.flags ∧ PcMoved 1 s t
      ∧ RegFrame [.r0, .r1, .r2, .r3, .r4, .r5] s t)
    ∧ (∃ t, exec .bcd s = .next t ∧ t.readRam (s.readPair .w1) = s.readRam (s.readPair .w2)
      ∧ SameRamBut (s.readPair .w1) s t
      ∧ (t.readPair .w2).toNat = ((s.readPair .w2).toNat + 65535) % 65536
      ∧ (t.readPair .w1).toNat = ((s.readPair .w1).toNat + 65535) % 65536
      ∧ (t.readPair .w0).toNat = ((s.readPair .w0).toNat + 65535) % 65536
      ∧ t.mcu.flags = s.mcu.flags ∧ PcMoved 1 s t
      ∧ RegFrame [.r0, .r1, .r2, .r3, .r4, .r5] s t)

/-- R195 (which the spec marks derived), from R190, R193, R194: `BCIR` from `W0 = n` has the effect of `n` `BCI`s (65536 of them for `W0 = 0`) apart from `pc`, and the
same for `BCDR` and `BCD`. -/
def Obligations.BlockRepeatIsSteps : Prop :=
  ∀ (s : State) (n : Nat), n = (if s.readPair .w0 = 0#16 then 65536 else (s.readPair .w0).toNat) →
    (∃ t u, exec .bcir s = .next t ∧ execAll (List.replicate n .bci) s = .next u
      ∧ t = { u with mcu := { u.mcu with pc := s.mcu.pc + 1#16 } })
    ∧ (∃ t u, exec .bcdr s = .next t ∧ execAll (List.replicate n .bcd) s = .next u
      ∧ t = { u with mcu := { u.mcu with pc := s.mcu.pc + 1#16 } })

/-- R193, R194: a repeating block copy always ends with `W0 = 0`, both addresses moved by the number of
bytes copied modulo 2^16, `pc` advanced once, no flag, stack entry or `W3` changed, and no byte of RAM changed
outside the addresses that `W1` ran through. -/
def Obligations.BlockRepeatEnds : Prop :=
  ∀ (s : State) (n : Nat), n = (if s.readPair .w0 = 0#16 then 65536 else (s.readPair .w0).toNat) →
    (∃ t, exec .bcir s = .next t ∧ t.readPair .w0 = 0#16
      ∧ (t.readPair .w2).toNat = ((s.readPair .w2).toNat + n) % 65536
      ∧ (t.readPair .w1).toNat = ((s.readPair .w1).toNat + n) % 65536
      ∧ (∀ a : Word, (∀ i < n, a ≠ s.readPair .w1 + BitVec.ofNat 16 i) → t.readRam a = s.readRam a)
      ∧ t.mcu.flags = s.mcu.flags ∧ PcMoved 1 s t
      ∧ RegFrame [.r0, .r1, .r2, .r3, .r4, .r5] s t)
    ∧ (∃ t, exec .bcdr s = .next t ∧ t.readPair .w0 = 0#16
      ∧ (t.readPair .w2).toNat = ((s.readPair .w2).toNat + (65536 - n)) % 65536
      ∧ (t.readPair .w1).toNat = ((s.readPair .w1).toNat + (65536 - n)) % 65536
      ∧ (∀ a : Word, (∀ i < n, a ≠ s.readPair .w1 - BitVec.ofNat 16 i) → t.readRam a = s.readRam a)
      ∧ t.mcu.flags = s.mcu.flags ∧ PcMoved 1 s t
      ∧ RegFrame [.r0, .r1, .r2, .r3, .r4, .r5] s t)

/-- R193, corner cases: when the destination is ahead of the source by `k` bytes, `BCIR` replicates the `k` source
bytes along the destination (the back-reference of an LZ decoder); with `k` at least the count it is a plain copy.
No other byte of RAM changes. -/
def Obligations.BlockCopyUpReplicates : Prop :=
  ∀ (s : State) (n k : Nat), n = (s.readPair .w0).toNat → 0 < n → 0 < k →
    (s.readPair .w1).toNat = (s.readPair .w2).toNat + k → (s.readPair .w1).toNat + n ≤ 65536 →
    ∃ t, exec .bcir s = .next t
      ∧ (∀ i < n, t.readRam (s.readPair .w1 + BitVec.ofNat 16 i)
        = s.readRam (s.readPair .w2 + BitVec.ofNat 16 (i % k)))
      ∧ (∀ a : Word, (∀ i < n, a ≠ s.readPair .w1 + BitVec.ofNat 16 i) → t.readRam a = s.readRam a)

/-- R194, corner cases: `BCDR` moves a block to a higher, overlapping address without replication; `W2` and `W1`
point at the last byte of each block. No other byte of RAM changes. -/
def Obligations.BlockCopyDownMoves : Prop :=
  ∀ (s : State) (n : Nat), n = (s.readPair .w0).toNat → 0 < n →
    (s.readPair .w2).toNat ≤ (s.readPair .w1).toNat → n ≤ (s.readPair .w2).toNat + 1 →
    ∃ t, exec .bcdr s = .next t
      ∧ (∀ i < n, t.readRam (s.readPair .w1 - BitVec.ofNat 16 i)
        = s.readRam (s.readPair .w2 - BitVec.ofNat 16 i))
      ∧ (∀ a : Word, (∀ i < n, a ≠ s.readPair .w1 - BitVec.ofNat 16 i) → t.readRam a = s.readRam a)

/-! ## Stack and exchange (46_mcu_stack_exchange.md) -/

/-- R200, R30: `PUSH Wp` writes `STK[SD]` and raises `SD` by 1; with `SD = STACK_DEPTH` it faults instead. -/
def Obligations.PushAddsAnEntry : Prop :=
  ∀ (s : State) (wp : Pair),
    (s.sd = s.params.stackDepth → ∃ t, exec (.push wp) s = .next t ∧ FaultEntry .stackOverflow s t)
    ∧ (s.sd ≠ s.params.stackDepth →
      ∃ t, exec (.push wp) s = .next t ∧ t.sd = s.sd + 1 ∧ t.stkEntry s.sd = some (s.readPair wp)
        ∧ (∀ i < s.sd, t.stkEntry i = s.stkEntry i) ∧ PcMoved 1 s t ∧ StkFrame [] s t)

/-- R201, R30: `POP Wp` takes `STK[SD-1]` into the pair and lowers `SD` by 1; with `SD = 0` it faults instead. -/
def Obligations.PopTakesTheTop : Prop :=
  ∀ (s : State) (wp : Pair),
    (s.sd = 0 → ∃ t, exec (.pop wp) s = .next t ∧ FaultEntry .stackUnderflow s t)
    ∧ (s.sd ≠ 0 →
      ∃ t, exec (.pop wp) s = .next t ∧ t.sd + 1 = s.sd ∧ s.stkEntry t.sd = some (t.readPair wp)
        ∧ (∀ i < t.sd, t.stkEntry i = s.stkEntry i) ∧ PcMoved 1 s t ∧ StkFrame (halves wp) s t)

/-- R202, R30: `XTS Wp` exchanges the pair and `STK[SD-1]`, `SD` unchanged; with `SD = 0` it faults instead. -/
def Obligations.ExchangeWithTop : Prop :=
  ∀ (s : State) (wp : Pair),
    (s.sd = 0 → ∃ t, exec (.xts wp) s = .next t ∧ FaultEntry .stackUnderflow s t)
    ∧ (s.sd ≠ 0 →
      ∃ t, exec (.xts wp) s = .next t ∧ t.sd = s.sd ∧ s.stkEntry (s.sd - 1) = some (t.readPair wp)
        ∧ t.stkEntry (s.sd - 1) = some (s.readPair wp)
        ∧ (∀ i < s.sd - 1, t.stkEntry i = s.stkEntry i) ∧ PcMoved 1 s t ∧ StkFrame (halves wp) s t)

/-- R201 and R202, corner cases: `PUSH Wa` then `POP Wb` copies `Wa` to `Wb` and restores the stack; two `XTS Wp` in
a row restore both the pair and the stack. -/
def Obligations.StackRoundTrips : Prop :=
  ∀ (s : State) (wa wb : Pair),
    (s.sd ≠ s.params.stackDepth →
      ∃ t, execAll [.push wa, .pop wb] s = .next t ∧ t.readPair wb = s.readPair wa ∧ t.mcu.stk = s.mcu.stk
        ∧ PcMoved 2 s t ∧ StkFrame (halves wb) s t)
    ∧ (s.sd ≠ 0 →
      ∃ t, execAll [.xts wa, .xts wa] s = .next t ∧ t.mcu.regs = s.mcu.regs ∧ t.mcu.stk = s.mcu.stk)

/-- R203, R204: the exchanges swap two pairs or two registers, and nothing else but `pc` changes; exchanging a thing
with itself is one case. -/
def Obligations.Exchanges : Prop :=
  ∀ (s : State) (wa wb : Pair) (ra rb : Reg),
    (∃ t, exec (.xchw wa wb) s = .next t ∧ t.readPair wa = s.readPair wb ∧ t.readPair wb = s.readPair wa
      ∧ t.mcu.flags = s.mcu.flags ∧ PcMoved 1 s t ∧ RegFrame (halves wa ++ halves wb) s t ∧ SameRam s t)
    ∧ (∃ t, exec (.xchb ra rb) s = .next t ∧ t.readReg ra = s.readReg rb ∧ t.readReg rb = s.readReg ra
      ∧ t.mcu.flags = s.mcu.flags ∧ PcMoved 2 s t ∧ RegFrame [ra, rb] s t ∧ SameRam s t)

/-! ## Control (47_mcu_control.md) -/

/-- R99: the condition table: the condition of each code, and when it holds. -/
def Obligations.ConditionTable : Prop :=
  ∀ f : Flags,
    (condHolds (.ofNum 0b000#3) f = true ↔ f.z = false) ∧ (condHolds (.ofNum 0b001#3) f = true ↔ f.z = true)
    ∧ (condHolds (.ofNum 0b010#3) f = true ↔ f.c = false) ∧ (condHolds (.ofNum 0b011#3) f = true ↔ f.c = true)
    ∧ (condHolds (.ofNum 0b100#3) f = true ↔ f.pv = false) ∧ (condHolds (.ofNum 0b101#3) f = true ↔ f.pv = true)
    ∧ (condHolds (.ofNum 0b110#3) f = true ↔ f.s = false) ∧ (condHolds (.ofNum 0b111#3) f = true ↔ f.s = true)
    ∧ (Cond.ofNum 0b000#3, Cond.ofNum 0b001#3, Cond.ofNum 0b010#3, Cond.ofNum 0b011#3)
      = (Cond.nz, Cond.z, Cond.nc, Cond.c)
    ∧ (Cond.ofNum 0b100#3, Cond.ofNum 0b101#3, Cond.ofNum 0b110#3, Cond.ofNum 0b111#3)
      = (Cond.po, Cond.pe, Cond.p, Cond.m)

/-- R210, R211: a jump sets `pc` to its target, an untaken one moves `pc` on by 3, and nothing else changes. -/
def Obligations.Jumps : Prop :=
  ∀ (s : State) (cc : Cond) (nn : Word),
    (∃ t, exec (.jp nn) s = .next t ∧ t.mcu.pc = nn ∧ RegFrame [] s t ∧ t.mcu.flags = s.mcu.flags ∧ SameRam s t)
    ∧ (∃ t, exec (.jpCc cc nn) s = .next t
      ∧ (if condHolds cc s.mcu.flags then t.mcu.pc = nn else PcMoved 3 s t)
      ∧ RegFrame [] s t ∧ t.mcu.flags = s.mcu.flags ∧ SameRam s t)

/-- R212, R213: a call pushes the address after itself and goes to its target; with a full stack it faults; an
untaken conditional call does not look at the stack. -/
def Obligations.Calls : Prop :=
  ∀ (s : State) (cc : Cond) (nn : Word),
    (s.sd = s.params.stackDepth → ∃ t, exec (.call nn) s = .next t ∧ FaultEntry .stackOverflow s t)
    ∧ (s.sd ≠ s.params.stackDepth →
      ∃ t v, exec (.call nn) s = .next t ∧ t.sd = s.sd + 1 ∧ t.stkEntry s.sd = some v
        ∧ v.toNat = (s.mcu.pc.toNat + 3) % 65536 ∧ (∀ i < s.sd, t.stkEntry i = s.stkEntry i)
        ∧ t.mcu.pc = nn ∧ StkFrame [] s t)
    ∧ (condHolds cc s.mcu.flags = true → s.sd = s.params.stackDepth →
      ∃ t, exec (.callCc cc nn) s = .next t ∧ FaultEntry .stackOverflow s t)
    ∧ (condHolds cc s.mcu.flags = true → s.sd ≠ s.params.stackDepth →
      ∃ t v, exec (.callCc cc nn) s = .next t ∧ t.sd = s.sd + 1 ∧ t.stkEntry s.sd = some v
        ∧ v.toNat = (s.mcu.pc.toNat + 3) % 65536 ∧ (∀ i < s.sd, t.stkEntry i = s.stkEntry i)
        ∧ t.mcu.pc = nn ∧ StkFrame [] s t)
    ∧ (condHolds cc s.mcu.flags = false →
      ∃ t, exec (.callCc cc nn) s = .next t ∧ PcMoved 3 s t ∧ t.mcu.stk = s.mcu.stk ∧ StkFrame [] s t)

/-- R214, R215: a return takes `STK[SD-1]` into `pc` and lowers `SD` by 1; with an empty stack it faults; an untaken
conditional return does not look at the stack. -/
def Obligations.Returns : Prop :=
  ∀ (s : State) (cc : Cond),
    (s.sd = 0 → ∃ t, exec .ret s = .next t ∧ FaultEntry .stackUnderflow s t)
    ∧ (s.sd ≠ 0 →
      ∃ t, exec .ret s = .next t ∧ t.sd + 1 = s.sd ∧ s.stkEntry t.sd = some t.mcu.pc
        ∧ (∀ i < t.sd, t.stkEntry i = s.stkEntry i) ∧ StkFrame [] s t)
    ∧ (condHolds cc s.mcu.flags = true → s.sd = 0 →
      ∃ t, exec (.retCc cc) s = .next t ∧ FaultEntry .stackUnderflow s t)
    ∧ (condHolds cc s.mcu.flags = true → s.sd ≠ 0 →
      ∃ t, exec (.retCc cc) s = .next t ∧ t.sd + 1 = s.sd ∧ s.stkEntry t.sd = some t.mcu.pc
        ∧ (∀ i < t.sd, t.stkEntry i = s.stkEntry i) ∧ StkFrame [] s t)
    ∧ (condHolds cc s.mcu.flags = false →
      ∃ t, exec (.retCc cc) s = .next t ∧ PcMoved 1 s t ∧ t.mcu.stk = s.mcu.stk ∧ StkFrame [] s t)

/-- R216, R217, R218: `NOP` moves `pc` on by 1; `HALT` sets `STATE` to HALTED and keeps `pc`; `ERR` raises
`SoftwareError`. Nothing else changes. -/
def Obligations.SystemInstructions : Prop :=
  ∀ (s : State),
    (∃ t, exec .nop s = .next t ∧ PcMoved 1 s t ∧ t = { s with mcu := { s.mcu with pc := t.mcu.pc } })
    ∧ (∃ t, exec .halt s = .next t ∧ t = { s with mcu := { s.mcu with run := .halted } })
    ∧ (∃ t, exec .err s = .next t ∧ FaultEntry .softwareError s t)

/-! ## The whole MCU -/

/-- R29: a flag that the table marks as unchanged for an instruction is unchanged by it. -/
def Obligations.FlagsWrittenByTable : Prop :=
  ∀ (i : Instr) (s t : State), exec i s = .next t →
    ((flagMask i).c = false → t.mcu.flags.c = s.mcu.flags.c)
    ∧ ((flagMask i).z = false → t.mcu.flags.z = s.mcu.flags.z)
    ∧ ((flagMask i).s = false → t.mcu.flags.s = s.mcu.flags.s)
    ∧ ((flagMask i).pv = false → t.mcu.flags.pv = s.mcu.flags.pv)

/-- R27: an MCU instruction that completes without a fault, is not a taken control transfer and not `HALT`, moves
`pc` on by its length; `HALT` and a faulting instruction leave `pc` where it is. -/
def Obligations.PcAdvancesByLength : Prop :=
  ∀ (i : Instr) (s t : State), i.isMcu = true → s.mcu.fault = none → exec i s = .next t →
    (t.mcu.fault = none → i ≠ .halt → transferTaken s.mcu.flags i = false → PcMoved i.size s t)
    ∧ (i = .halt → t.mcu.pc = s.mcu.pc) ∧ (t.mcu.fault ≠ none → t.mcu.pc = s.mcu.pc)

/-- R2: no MCU instruction reads or writes BSE state, and no BSE command reads or writes MCU state. -/
def Obligations.UnitsShareNoState : Prop :=
  ∀ (i : Instr) (s t : State), exec i s = .next t →
    (i.isMcu = true → SameOutsideMcu s t ∧ ∀ e : Bse, exec i { s with bse := e } = .next { t with bse := e })
    ∧ (i.isBse = true → SameOutsideBse s t ∧ ∀ m : Mcu, exec i { s with mcu := m } = .next { t with mcu := m })

/-- R40: the transitions of `STATE`: reset gives STOPPED, START in STOPPED gives RUNNING, `HALT` in RUNNING gives
HALTED, a fault in RUNNING gives FAULTED; no other transition exists. -/
def Obligations.RunStateTransitions : Prop :=
  ∀ (s t : State), step s = .next t →
    t.mcu.run = s.mcu.run
    ∨ (t.mcu.run = .stopped ∧ s.inbox.head? = some (.host .reset))
    ∨ (s.mcu.run = .stopped ∧ t.mcu.run = .running ∧ s.inbox.head? = some (.host .start))
    ∨ (s.mcu.run = .running ∧ t.mcu.run = .halted ∧ s.fetchInstr = .instr .halt)
    ∨ (s.mcu.run = .running ∧ t.mcu.run = .faulted ∧ t.mcu.fault ≠ none)

/-- R33, R75: only the host's LOADPROG and RESET change the program store; no step changes the parameters (R49). -/
def Obligations.ProgramStoreWrittenByHostOnly : Prop :=
  ∀ (s t : State), step s = .next t →
    t.params = s.params
    ∧ (t.prog = s.prog ∨ s.inbox.head? = some (.host .reset)
      ∨ ∃ a v, s.inbox.head? = some (.host (.loadProg a v)) ∧ s.mcu.run = .stopped ∧ a < s.params.progSize
        ∧ ∀ b, Memory.find b t.prog = if b = a then some v else Memory.find b s.prog)

/-- R232, R234: a fault of the MCU writes `FAULT`, `FPC` and `STATE` and nothing else: all checks come before the
first write. -/
def Obligations.McuFaultsArePrecise : Prop :=
  ∀ (s t : State), s.mcu.run = .running → mcuMove s = .next t → t.mcu.run = .faulted →
    ∃ k, FaultEntry k s t

/-- R272, R235: the MCU does not step in STOPPED, HALTED or FAULTED. -/
def Obligations.OnlyRunningSteps : Prop :=
  ∀ (s : State), s.mcu.run ≠ .running →
    mcuMove s = .next s ∧ (s.inbox = [] → step s = .next s)
    ∧ (∀ rest, s.inbox = .mcu :: rest → step s = .next { s with inbox := rest })

/-- R233, R231: the checks 1 to 4 in their order, each with its fault. -/
def Obligations.FetchChecksInOrder : Prop :=
  ∀ (s : State), s.mcu.run = .running →
    (s.params.progSize ≤ s.mcu.pc.toNat → ∃ t, mcuMove s = .next t ∧ FaultEntry .fetchOutOfRange s t)
    ∧ (∀ b0, s.mcu.pc.toNat < s.params.progSize → Memory.find s.mcu.pc.toNat s.prog = some b0 →
      (b0 ∈ illegalByte0s → ∃ t, mcuMove s = .next t ∧ FaultEntry .illegalInstruction s t)
      ∧ (∀ len, mcuLength b0 = some len → 2 ≤ len → s.params.progSize ≤ (s.mcu.pc + 1#16).toNat →
        ∃ t, mcuMove s = .next t ∧ FaultEntry .fetchOutOfRange s t)
      ∧ (∀ b1, (s.mcu.pc + 1#16).toNat < s.params.progSize →
        Memory.find (s.mcu.pc + 1#16).toNat s.prog = some b1 →
        (mcuLength b0 = some 3 → s.params.progSize ≤ (s.mcu.pc + 2#16).toNat →
          ∃ t, mcuMove s = .next t ∧ FaultEntry .fetchOutOfRange s t)
        ∧ (illegalSub b0 b1 → ∃ t, mcuMove s = .next t ∧ FaultEntry .illegalInstruction s t)))

/-- The model's own choice (log 4), which R269 allows: the MCU's step stops at a byte of the program store that lies
below `PROG_SIZE` and that nothing loaded (R262: "a run that fetches it has no defined meaning"). -/
def Obligations.UnloadedByteStops : Prop :=
  ∀ (s : State), s.mcu.run = .running → s.mcu.pc.toNat < s.params.progSize →
    Memory.find s.mcu.pc.toNat s.prog = none → mcuMove s = .fault (.unloadedProgramByte s.mcu.pc)

/-- R251 (which the spec marks derived), R26: with `PROG_SIZE` = 65536, a loaded program store and no illegal
encoding in it, the only faults are codes 3, 4 and 5. -/
def Obligations.FullProgramFaults : Prop :=
  ∀ (s : State) (f : Word → Byte), s.mcu.run = .running → s.mcu.fault = none → s.params.progSize = 65536 →
    (∀ a : Word, Memory.find a.toNat s.prog = some (f a)) →
    (∀ a : Word, ∃ i rest, decodeMcu [f a, f (a + 1#16), f (a + 2#16)] = .instr i rest) →
    ∃ t, mcuMove s = .next t ∧ (t.mcu.fault = none ∨ t.mcu.fault = some .stackOverflow
      ∨ t.mcu.fault = some .stackUnderflow ∨ t.mcu.fault = some .softwareError)

/-! ## Encoding and the step -/

/-- R102: byte 0 is illegal for exactly ten values. -/
def Obligations.TenIllegalFirstBytes : Prop :=
  ∀ b : Byte, mcuLength b = none ↔ b ∈ illegalByte0s

/-- R91, R95, R101, R111: decoding what the encoder writes gives the instruction back, for every well-formed
instruction and every operand. -/
def Obligations.DecodeEncode : Prop :=
  ∀ i : Instr, i.wf = true → decode (encode i) = .instr i []

/-- R91, R101, R102, R111: the words of an instruction have no second spelling: whatever the decoder accepts is what
the encoder writes. -/
def Obligations.EncodeDecode : Prop :=
  (∀ (bs : List Byte) (i : Instr) (rest : List Byte), decodeMcu bs = .instr i rest →
    ∃ pre, encode i = .bytes pre ∧ bs = pre ++ rest)
  ∧ (∀ (w : Word) (i : Instr) (rest : List Byte), decodeBse w = .instr i rest →
    encode i = .command w ∧ rest = [])

/-- Examples of R150, R152, R153, R170, R180, R193, R200, R211, R162 and R111: a word of each family, written out from
its encoding, decodes to its instruction. -/
def Obligations.SpecWordsDecode : Prop :=
  decodeMcu [0b01010101#8] = .instr (.ldRR .r2 .r5) []
  ∧ decodeMcu [0b00101010#8, 0b00110100#8, 0b00010010#8] = .instr (.ldWNN .w2 0x1234#16) []
  ∧ decodeMcu [0b00101100#8, 0b00010110#8] = .instr (.ldRMem .r6 .w2) []
  ∧ decodeMcu [0b10100010#8] = .instr (.incw .w2) []
  ∧ decodeMcu [0b10000001#8] = .instr (.rl .r1) []
  ∧ decodeMcu [0b11001000#8] = .instr (.addw .w2 .w0) []
  ∧ decodeMcu [0b10111010#8] = .instr .bcir []
  ∧ decodeMcu [0b10101010#8] = .instr (.push .w2) []
  ∧ decodeMcu [0b00001001#8, 0b00000000#8, 0b00100000#8] = .instr (.jpCc .z 0x2000#16) []
  ∧ decodeBse 0b0011001100000101#16 = .instr (.putbits 3#4 5#8) []

/-- R103, R272: when the MCU runs, the host makes no move and the bytes at `pc` decode to an instruction, the step is
that instruction's meaning; an MCU turn in the inbox (log 2) is taken out first. -/
def Obligations.StepRunsInstruction : Prop :=
  ∀ (s : State) (bs : List Byte) (i : Instr), s.mcu.run = .running → decodeMcu bs = .instr i [] →
    (∀ k, (h : k < bs.length) → (s.mcu.pc + BitVec.ofNat 16 k).toNat < s.params.progSize
      ∧ Memory.find (s.mcu.pc + BitVec.ofNat 16 k).toNat s.prog = some bs[k]) →
    (s.inbox = [] → step s = exec i s)
    ∧ (∀ rest, s.inbox = .mcu :: rest → step s = exec i { s with inbox := rest })

/-- R263 (BSECMD), R110, R111: when the host's next transaction is a command word, the step is the command port's
answer to it; where the word decodes to a command, that command's meaning. The transaction is taken out of the inbox
and gives nothing back (logs 2, 7). -/
def Obligations.StepRunsCommand : Prop :=
  ∀ (s : State) (w : Word) (rest : List Move), s.inbox = .host (.bseCmd w) :: rest →
    step s = bseCommand w { s with inbox := rest, reply := .nothing }
    ∧ ∀ (i : Instr) (r : List Byte), decodeBse w = .instr i r →
      step s = exec i { s with inbox := rest, reply := .nothing }

/-! ## The invariant -/

/-- R46 (which the spec marks derived), R48: the invariant of the block holds right after reset. The parameters are the model's own choice
(log 1). -/
def Obligations.ResetMeetsInvariant : Prop := BlockInv State.reset

/-- R46 (which the spec marks derived), R30, R32, R33, R41, R42: every step, whatever the host sends, keeps the invariant. -/
def Obligations.StepKeepsInvariant : Prop :=
  ∀ (s t : State), BlockInv s → step s = .next t → BlockInv t

/-! ## The BSE (40_bse_commands.md) -/

/-- R131, R132: `PUTBIT b` puts `b` into `ACC[7 - CNT]`; the first bit of a byte claims the next position, the
eighth writes the byte there; it faults only when it needs a position that does not exist. -/
def Obligations.PutBitCommand : Prop :=
  ∀ (s : State) (b : Bool), s.bse.bfault = none →
    (s.bse.cnt = 0#3 → s.bse.wp = s.params.outCap →
      ∃ t, exec (.putbit b) s = .next t ∧ BseFaultEntry .outputFull s t)
    ∧ (¬(s.bse.cnt = 0#3 ∧ s.bse.wp = s.params.outCap) →
      ∃ t acc, exec (.putbit b) s = .next t ∧ SameOutsideBse s t ∧ t.bse.bfault = none
        ∧ t.bse.slot = (if s.bse.cnt = 0#3 then s.bse.wp else s.bse.slot)
        ∧ t.bse.wp = (if s.bse.cnt = 0#3 then s.bse.wp + 1 else s.bse.wp)
        ∧ t.bse.cnt.toNat = (s.bse.cnt.toNat + 1) % 8
        ∧ (∀ i < 8, acc.getLsbD i = if i = 7 - s.bse.cnt.toNat then b else s.bse.acc.getLsbD i)
        ∧ (if s.bse.cnt = 7#3 then
            t.bse.acc = 0x00#8 ∧ t.bse.outAt s.bse.slot = some acc
              ∧ ∀ j, j ≠ s.bse.slot → t.bse.outAt j = s.bse.outAt j
          else t.bse.acc = acc ∧ t.bse.out = s.bse.out))

/-- R133, R239, R241: `PUTBITS n,v` is `n` successive `PUTBIT`s of `v[n-1]` down to `v[0]`, all or nothing: an
illegal count is `BadCommand`, a slot that does not exist is `OutputFull`, and then nothing else changes. -/
def Obligations.PutBitsIsPutBitSequence : Prop :=
  ∀ (s : State) (n : BitVec 4) (v : Byte), s.bse.bfault = none →
    (n.toNat = 0 ∨ 8 < n.toNat → ∃ t, exec (.putbits n v) s = .next t ∧ BseFaultEntry .badCommand s t)
    ∧ (1 ≤ n.toNat → n.toNat ≤ 8 →
      ((s.bse.cnt = 0#3 ∨ 8 < s.bse.cnt.toNat + n.toNat) ∧ s.bse.wp = s.params.outCap →
        ∃ t, exec (.putbits n v) s = .next t ∧ BseFaultEntry .outputFull s t)
      ∧ (¬((s.bse.cnt = 0#3 ∨ 8 < s.bse.cnt.toNat + n.toNat) ∧ s.bse.wp = s.params.outCap) →
        ∃ t, exec (.putbits n v) s = .next t ∧ t.bse.bfault = none ∧ SameOutsideBse s t
          ∧ execAll ((List.range n.toNat).reverse.map (fun i => .putbit (v.getLsbD i))) s = .next t))

/-- R134: `FLUSH` writes a pending byte to its slot, does nothing when there is none, claims no position, and is
idempotent. -/
def Obligations.FlushWritesPendingByte : Prop :=
  ∀ (s : State), s.bse.bfault = none →
    ∃ t, exec .flush s = .next t ∧ SameOutsideBse s t ∧ t.bse.bfault = none ∧ t.bse.wp = s.bse.wp
      ∧ t.bse.slot = s.bse.slot ∧ t.bse.cnt = 0#3
      ∧ (s.bse.cnt = 0#3 → t = s)
      ∧ (s.bse.cnt ≠ 0#3 → t.bse.acc = 0x00#8 ∧ t.bse.outAt s.bse.slot = some s.bse.acc
        ∧ ∀ j, j ≠ s.bse.slot → t.bse.outAt j = s.bse.outAt j)
      ∧ exec .flush t = .next t

/-- R135: `PUTBYTE v` writes `OUT[WP]` and raises `WP`, leaving a pending byte pending; with no position left it is
`OutputFull` and nothing else changes. -/
def Obligations.PutByteAppends : Prop :=
  ∀ (s : State) (v : Byte), s.bse.bfault = none →
    (s.bse.wp = s.params.outCap → ∃ t, exec (.putbyte v) s = .next t ∧ BseFaultEntry .outputFull s t)
    ∧ (s.bse.wp ≠ s.params.outCap →
      ∃ t, exec (.putbyte v) s = .next t ∧ SameOutsideBse s t ∧ t.bse.bfault = none
        ∧ t.bse.wp = s.bse.wp + 1 ∧ t.bse.outAt s.bse.wp = some v
        ∧ (∀ j, j ≠ s.bse.wp → t.bse.outAt j = s.bse.outAt j)
        ∧ t.bse.acc = s.bse.acc ∧ t.bse.cnt = s.bse.cnt ∧ t.bse.slot = s.bse.slot)

/-- R130, R240: `BSINIT` runs also while `BFAULT` is set; it gives every BSE register its reset value, discards a
pending byte and does not clear `OUT`. -/
def Obligations.BsinitResetsEncoder : Prop :=
  ∀ (s : State), ∃ t, exec .bsinit s = .next t ∧ SameOutsideBse s t ∧ t.bse.acc = 0x00#8 ∧ t.bse.cnt = 0#3
    ∧ t.bse.slot = 0 ∧ t.bse.wp = 0 ∧ t.bse.bfault = none ∧ t.bse.out = s.bse.out

/-- R240: a command that raises a fault writes `BFAULT` and nothing else; while `BFAULT` is set, every command word but
one with `op` = 1 is ignored with no state change at all; 0x1000 resets the encoder and clears the fault; another word
with `op` = 1 sets `BFAULT` to `BadCommand`. -/
def Obligations.EncoderFaultLatch : Prop :=
  (∀ (i : Instr) (s t : State), i.isBse = true → s.bse.bfault = none → exec i s = .next t →
    t.bse.bfault ≠ none → ∃ k, BseFaultEntry k s t)
  ∧ (∀ (s : State) (w : Word), s.bse.bfault ≠ none → w.toNat / 4096 ≠ 1 → bseCommand w s = .next s)
  ∧ (∀ s : State, ∃ t, bseCommand 0x1000#16 s = .next t ∧ SameOutsideBse s t
    ∧ t.bse = { acc := 0x00#8, cnt := 0#3, slot := 0, wp := 0, out := s.bse.out, bfault := none })
  ∧ ∀ (s : State) (w : Word), w.toNat / 4096 = 1 → w ≠ 0x1000#16 →
    ∃ t, bseCommand w s = .next t ∧ BseFaultEntry .badCommand s t

/-- R112, R239: an illegal command word, while no fault is set, sets `BFAULT` to `BadCommand` and changes nothing
else; a legal one does not. -/
def Obligations.IllegalWordsAreBadCommands : Prop :=
  ∀ (s : State) (w : Word), s.bse.bfault = none →
    (illegalWord w → ∃ t, bseCommand w s = .next t ∧ BseFaultEntry .badCommand s t)
    ∧ (¬illegalWord w → ∃ t, bseCommand w s = .next t ∧ t.bse.bfault ≠ some .badCommand)

/-- R136 (a) (which the spec marks derived, from R130 to R135): plain packing. Bits sent by `PUTBIT` and `PUTBITS` after a `BSINIT`, then a `FLUSH`, stand in `OUT`
most significant bit first, eight to a byte, the last byte padded with zeros. -/
def Obligations.PlainPacking : Prop :=
  ∀ (cmds : List Instr) (s : State), (∀ c ∈ cmds, sendsBits c = true) →
    ((cmds.flatMap sentBits).length + 7) / 8 ≤ s.params.outCap →
    ∃ t, execAll (.bsinit :: cmds ++ [.flush]) s = .next t ∧ SameOutsideBse s t ∧ t.bse.bfault = none
      ∧ t.bse.cnt = 0#3 ∧ t.bse.wp = ((cmds.flatMap sentBits).length + 7) / 8
      ∧ ∀ j < t.bse.wp, ∃ v, t.bse.outAt j = some v
        ∧ ∀ i < 8, v.getLsbD (7 - i) = (cmds.flatMap sentBits).getD (8 * j + i) false

/-- R136 (e) (which the spec marks derived, from R130 to R135): at the end of a fault-free sequence with one `FLUSH`, each bit counted as 1 and each `PUTBYTE` as 8, the
total `T` satisfies `8*WP - 7 <= T <= 8*WP`. -/
def Obligations.CostConsistency : Prop :=
  ∀ (cmds : List Instr) (s t : State), (∀ c ∈ cmds, c.isBse = true ∧ c ≠ .bsinit ∧ c ≠ .flush) →
    execAll (.bsinit :: cmds ++ [.flush]) s = .next t → t.bse.bfault = none →
    8 * t.bse.wp ≤ (cmds.map bitCost).sum + 7 ∧ (cmds.map bitCost).sum ≤ 8 * t.bse.wp

/-! ## The host (70_reset_and_hazards.md) -/

/-- R48 (and R260): RESET, in any state, gives every piece of state the value of the reset table; the parameters stay.
The transaction reaches the block through the inbox (log 2). -/
def Obligations.HostResetValues : Prop :=
  ∀ (s : State) (rest : List Move), s.inbox = .host .reset :: rest →
    ∃ t, step s = .next t ∧ (∀ r, t.readReg r = 0x00#8) ∧ t.mcu.flags = ⟨false, false, false, false⟩
      ∧ t.mcu.pc = 0x0000#16 ∧ t.sd = 0 ∧ (∀ a, t.readRam a = 0x00#8) ∧ t.mcu.run = .stopped
      ∧ t.mcu.fault = none ∧ t.mcu.fpc = 0x0000#16 ∧ t.bse.acc = 0x00#8 ∧ t.bse.cnt = 0#3 ∧ t.bse.slot = 0
      ∧ t.bse.wp = 0 ∧ t.bse.bfault = none ∧ t.params = s.params

/-- R263, R267: the host's writes and START are refused unless the MCU is STOPPED, and its reads of MCU state are
refused while it is RUNNING; a refused transaction changes nothing. -/
def Obligations.RefusedTransactionsChangeNothing : Prop :=
  ∀ (s : State) (op : HostOp) (rest : List Move), s.inbox = .host op :: rest →
    ((s.mcu.run ≠ .stopped ∧
        ((∃ a v, op = .loadProg a v) ∨ (∃ a v, op = .writeRam a v) ∨ (∃ m v, op = .writeReg m v) ∨ op = .start))
      ∨ (s.mcu.run = .running ∧ ((∃ m, op = .readReg m) ∨ (∃ a, op = .readRam a) ∨ ∃ i, op = .readStk i))
      ∨ (∃ a v, op = .loadProg a v ∧ s.params.progSize ≤ a)
      ∨ (∃ i, op = .readStk i ∧ s.sd ≤ i)
      ∨ (∃ i, op = .bseOut i ∧ s.bse.wp ≤ i)) →
    step s = .next { s with inbox := rest, reply := .refused }

/-- R263, R43: in STOPPED the host's writes and START take effect: a byte of RAM, a byte of the program store, `pc`,
the flags or a general register, `STATE`; nothing else changes. `FLAGS` is 8 bits wide in R43; that a value above 255
written to it sets the flags from its bits 0 to 3 is no rule of the spec but the model's own choice (log 8). -/
def Obligations.HostWritesWhenStopped : Prop :=
  ∀ (s : State) (rest : List Move), s.mcu.run = .stopped →
    (∀ a v, s.inbox = .host (.writeRam a v) :: rest →
      ∃ t, step s = .next t ∧ t.readRam a = v ∧ SameRamBut a s t
        ∧ t = { s with inbox := rest, reply := .nothing, mcu := { s.mcu with ram := t.mcu.ram } })
    ∧ (∀ a v, s.inbox = .host (.loadProg a v) :: rest → a < s.params.progSize →
      ∃ t, step s = .next t ∧ (∀ b, Memory.find b t.prog = if b = a then some v else Memory.find b s.prog)
        ∧ t = { s with inbox := rest, reply := .nothing, prog := t.prog })
    ∧ (∀ v, s.inbox = .host (.writeReg 3 v) :: rest →
      step s = .next { s with inbox := rest, reply := .nothing, mcu := { s.mcu with pc := v } })
    ∧ (∀ v : Word, s.inbox = .host (.writeReg 5 v) :: rest →
      step s = .next { s with inbox := rest, reply := .nothing, mcu := { s.mcu with
        flags := ⟨v.getLsbD 0, v.getLsbD 1, v.getLsbD 2, v.getLsbD 3⟩ } })
    ∧ (∀ (r : Reg) (v : Byte), s.inbox = .host (.writeReg (8 + r.num.toNat) (v.setWidth 16)) :: rest →
      ∃ t, step s = .next t ∧ t.readReg r = v ∧ SameRegsBut [r] s t
        ∧ t = { s with inbox := rest, reply := .nothing, mcu := { s.mcu with regs := t.mcu.regs } })
    ∧ (s.inbox = .host .start :: rest →
      step s = .next { s with inbox := rest, reply := .nothing, mcu := { s.mcu with run := .running } })

/-- R263, R43, R45, R137: a host read changes no state of the block, and gives back the value read; a read of the
claimed and unwritten position gives the free value, whatever it is (log 5). -/
def Obligations.HostReadsHaveNoEffect : Prop :=
  ∀ (s : State) (rest : List Move),
    (s.inbox = .host .readState :: rest →
      ∃ n, step s = .next { s with inbox := rest, reply := .value n }
        ∧ (n = 0 ↔ s.mcu.run = .stopped) ∧ (n = 1 ↔ s.mcu.run = .running) ∧ (n = 2 ↔ s.mcu.run = .halted)
        ∧ (n = 3 ↔ s.mcu.run = .faulted))
    ∧ (∀ r : Reg, s.inbox = .host (.readReg (8 + r.num.toNat)) :: rest → s.mcu.run ≠ .running →
      step s = .next { s with inbox := rest, reply := .value (s.readReg r).toNat })
    ∧ (s.inbox = .host (.readReg 5) :: rest → s.mcu.run ≠ .running →
      step s = .next { s with inbox := rest, reply := .value (s.mcu.flags.c.toNat + 2 * s.mcu.flags.z.toNat
        + 4 * s.mcu.flags.s.toNat + 8 * s.mcu.flags.pv.toNat) })
    ∧ (∀ n, s.inbox = .host (.readReg 1) :: rest → s.mcu.run ≠ .running →
      (s.mcu.fault, n) ∈ [(none, 0), (some .illegalInstruction, 1), (some .fetchOutOfRange, 2),
        (some .stackOverflow, 3), (some .stackUnderflow, 4), (some .softwareError, 5)] →
      step s = .next { s with inbox := rest, reply := .value n })
    ∧ (∀ m n, s.inbox = .host (.readReg m) :: rest → s.mcu.run ≠ .running →
      (m, n) ∈ [(2, s.mcu.fpc.toNat), (3, s.mcu.pc.toNat), (4, s.sd)] →
      step s = .next { s with inbox := rest, reply := .value n })
    ∧ (∀ n, s.inbox = .host (.bseRead 0) :: rest →
      (s.bse.bfault, n) ∈ [(none, 0), (some .badCommand, 1), (some .outputFull, 2)] →
      step s = .next { s with inbox := rest, reply := .value n })
    ∧ (∀ b n, s.inbox = .host (.bseRead b) :: rest →
      (b, n) ∈ [(1, s.bse.cnt.toNat), (2, s.bse.acc.toNat), (3, s.bse.slot), (4, s.bse.wp)] →
      step s = .next { s with inbox := rest, reply := .value n })
    ∧ (∀ a : Word, s.inbox = .host (.readRam a) :: rest → s.mcu.run ≠ .running →
      step s = .next { s with inbox := rest, reply := .value (s.readRam a).toNat })
    ∧ (∀ i v, s.inbox = .host (.readStk i) :: rest → s.mcu.run ≠ .running → s.stkEntry i = some v →
      step s = .next { s with inbox := rest, reply := .value v.toNat })
    ∧ (∀ i v, s.inbox = .host (.bseOut i) :: rest → i < s.bse.wp → ¬(s.bse.cnt ≠ 0#3 ∧ i = s.bse.slot) →
      s.bse.outAt i = some v → step s = .next { s with inbox := rest, reply := .value v.toNat })
    ∧ (∀ i, s.inbox = .host (.bseOut i) :: rest → i < s.bse.wp → s.bse.cnt ≠ 0#3 → i = s.bse.slot →
      step s = .next { s with
        inbox := rest
        freeCount := s.freeCount + 1
        reply := .value (Config.unspecifiedOut s.freeCount).toNat })
end

