-- ==== Sys2Proof/Laws/Memory.lean ====
section
/-! SUPPORT. The laws of the sparse memories: a read after a write, and the canonical form kept by every
operation. -/

namespace Sys2Proof.Machine

@[simp] theorem Memory.find_nil (a : Nat) : Memory.find a [] = none := rfl

@[simp] theorem Memory.find_put_same (a : Nat) (v : Byte) (m : Memory) :
    Memory.find a (Memory.put a v m) = some v := by
  induction m with
  | nil => simp [Memory.put, Memory.find]
  | cons c m ih =>
    obtain ⟨k, w⟩ := c
    unfold Memory.put
    split
    · simp [Memory.find]
    · split
      · simp [Memory.find]
      · rename_i _ hne
        simp [Memory.find, Ne.symm hne, ih]

theorem Memory.find_put_other {a b : Nat} (h : b ≠ a) (v : Byte) (m : Memory) :
    Memory.find b (Memory.put a v m) = Memory.find b m := by
  induction m with
  | nil => simp [Memory.put, Memory.find, Ne.symm h]
  | cons c m ih =>
    obtain ⟨k, w⟩ := c
    unfold Memory.put
    split
    · simp [Memory.find, Ne.symm h]
    · split
      · rename_i _ he
        subst he
        simp [Memory.find, Ne.symm h]
      · simp [Memory.find, ih]

theorem Memory.find_put (a b : Nat) (v : Byte) (m : Memory) :
    Memory.find b (Memory.put a v m) = if b = a then some v else Memory.find b m := by
  split
  · rename_i h
    subst h
    exact Memory.find_put_same _ _ _
  · rename_i h
    exact Memory.find_put_other h _ _

@[simp] theorem Memory.find_drop_same (a : Nat) (m : Memory) : Memory.find a (Memory.drop a m) = none := by
  induction m with
  | nil => rfl
  | cons c m ih =>
    obtain ⟨k, w⟩ := c
    unfold Memory.drop
    split
    · exact ih
    · rename_i h
      simp [Memory.find, h, ih]

theorem Memory.find_drop_other {a b : Nat} (h : b ≠ a) (m : Memory) :
    Memory.find b (Memory.drop a m) = Memory.find b m := by
  induction m with
  | nil => rfl
  | cons c m ih =>
    obtain ⟨k, w⟩ := c
    unfold Memory.drop
    split
    · rename_i he
      subst he
      simp [Memory.find, Ne.symm h, ih]
    · simp [Memory.find, ih]

/-- A byte of RAM reads as what was last written to it (rule R65). -/
@[simp] theorem Memory.read_write_same (m : Memory) (a : Word) (v : Byte) :
    Memory.read (Memory.write m a v) a = v := by
  unfold Memory.read Memory.write
  split
  · rename_i h
    simp [h]
  · simp

/-- A write changes no other byte of RAM (rule R67). -/
theorem Memory.read_write_other {a b : Word} (h : b ≠ a) (m : Memory) (v : Byte) :
    Memory.read (Memory.write m a v) b = Memory.read m b := by
  have h' : b.toNat ≠ a.toNat := fun he => h (BitVec.eq_of_toNat_eq he)
  unfold Memory.read Memory.write
  split
  · rw [Memory.find_drop_other h']
  · rw [Memory.find_put_other h']

theorem Memory.read_write (m : Memory) (a b : Word) (v : Byte) :
    Memory.read (Memory.write m a v) b = if b = a then v else Memory.read m b := by
  split
  · rename_i h
    subst h
    exact Memory.read_write_same _ _ _
  · rename_i h
    exact Memory.read_write_other h _ _

/-- What is listed after a `put` was listed before, or is the new entry. -/
theorem Memory.mem_put {a : Nat} {v : Byte} {m : Memory} {c : Host.Cell} (h : c ∈ Memory.put a v m) :
    c = (a, v) ∨ c ∈ m := by
  induction m with
  | nil => simpa [Memory.put] using h
  | cons d m ih =>
    obtain ⟨k, w⟩ := d
    unfold Memory.put at h
    split at h
    · simpa using h
    · split at h
      · rcases List.mem_cons.1 h with h | h
        · exact .inl h
        · exact .inr (List.mem_cons_of_mem _ h)
      · rcases List.mem_cons.1 h with h | h
        · exact .inr (h ▸ List.mem_cons_self)
        · exact (ih h).imp id (List.mem_cons_of_mem _)

/-- What is listed after a `drop` was listed before, at another address. -/
theorem Memory.mem_drop {a : Nat} {m : Memory} {c : Host.Cell} (h : c ∈ Memory.drop a m) :
    c ∈ m ∧ c.1 ≠ a := by
  induction m with
  | nil => simp [Memory.drop] at h
  | cons d m ih =>
    obtain ⟨k, w⟩ := d
    unfold Memory.drop at h
    split at h
    · exact ⟨List.mem_cons_of_mem _ (ih h).1, (ih h).2⟩
    · rename_i hne
      rcases List.mem_cons.1 h with h | h
      · subst h
        exact ⟨List.mem_cons_self, hne⟩
      · exact ⟨List.mem_cons_of_mem _ (ih h).1, (ih h).2⟩

theorem Memory.sorted_put {m : Memory} (h : Memory.sorted m) (a : Nat) (v : Byte) :
    Memory.sorted (Memory.put a v m) := by
  induction m with
  | nil => simp [Memory.put, Memory.sorted]
  | cons d m ih =>
    obtain ⟨k, w⟩ := d
    obtain ⟨hk, hm⟩ := List.pairwise_cons.1 h
    unfold Memory.put
    split
    · rename_i hlt
      refine List.pairwise_cons.2 ⟨fun c hc => ?_, h⟩
      rcases List.mem_cons.1 hc with hc | hc
      · subst hc
        exact hlt
      · exact Nat.lt_trans hlt (hk c hc)
    · split
      · rename_i _ he
        subst he
        exact List.pairwise_cons.2 ⟨hk, hm⟩
      · rename_i hlt hne
        refine List.pairwise_cons.2 ⟨fun c hc => ?_, ih hm⟩
        rcases Memory.mem_put hc with hc | hc
        · subst hc
          show k < a
          omega
        · exact hk c hc

theorem Memory.sorted_drop {m : Memory} (h : Memory.sorted m) (a : Nat) : Memory.sorted (Memory.drop a m) := by
  induction m with
  | nil => exact h
  | cons d m ih =>
    obtain ⟨k, w⟩ := d
    obtain ⟨hk, hm⟩ := List.pairwise_cons.1 h
    unfold Memory.drop
    split
    · exact ih hm
    · exact List.pairwise_cons.2 ⟨fun c hc => hk c (Memory.mem_drop hc).1, ih hm⟩

/-- A RAM write keeps the canonical form. -/
theorem Memory.wf_write {m : Memory} (h : Memory.wf m) (a : Word) (v : Byte) : Memory.wf (Memory.write m a v) := by
  unfold Memory.write
  split
  · exact ⟨Memory.sorted_drop h.1 _, fun c hc => h.2 c (Memory.mem_drop hc).1⟩
  · rename_i hv
    refine ⟨Memory.sorted_put h.1 _ _, fun c hc => ?_⟩
    rcases Memory.mem_put hc with hc | hc
    · subst hc
      exact ⟨a.isLt, hv⟩
    · exact h.2 c hc

/-- A write of the program store or of `OUT` keeps the canonical form. -/
theorem Memory.wfBelow_put {size a : Nat} {m : Memory} (h : Memory.wfBelow size m) (ha : a < size) (v : Byte) :
    Memory.wfBelow size (Memory.put a v m) := by
  refine ⟨Memory.sorted_put h.1 _ _, fun c hc => ?_⟩
  rcases Memory.mem_put hc with hc | hc
  · subst hc
    exact ha
  · exact h.2 c hc

theorem Memory.wfBelow_mono {m n : Nat} {l : Memory} (h : Memory.wfBelow m l) (hmn : m ≤ n) :
    Memory.wfBelow n l :=
  ⟨h.1, fun c hc => Nat.lt_of_lt_of_le (h.2 c hc) hmn⟩

/-- The memory of `State.reset` has the canonical form. -/
theorem Memory.wf_reset : Memory.wf State.reset.mcu.ram := by decide

end Sys2Proof.Machine
end

