-- ==== Sys2Proof/Laws/State.lean ====
section
/-! SUPPORT. One lemma for each field and each update of State, true by rfl, and the same for `RegFile`. -/

namespace Sys2Proof.Machine

@[simp] theorem State.writeReg_params (s : State) (r : Reg) (v : Byte) :
    (s.writeReg r v).params = s.params := rfl
@[simp] theorem State.writeReg_prog (s : State) (r : Reg) (v : Byte) :
    (s.writeReg r v).prog = s.prog := rfl
@[simp] theorem State.writeReg_bse (s : State) (r : Reg) (v : Byte) :
    (s.writeReg r v).bse = s.bse := rfl
@[simp] theorem State.writeReg_inbox (s : State) (r : Reg) (v : Byte) :
    (s.writeReg r v).inbox = s.inbox := rfl
@[simp] theorem State.writeReg_reply (s : State) (r : Reg) (v : Byte) :
    (s.writeReg r v).reply = s.reply := rfl
@[simp] theorem State.writeReg_freeCount (s : State) (r : Reg) (v : Byte) :
    (s.writeReg r v).freeCount = s.freeCount := rfl
@[simp] theorem State.writeReg_mcu_regs (s : State) (r : Reg) (v : Byte) :
    (s.writeReg r v).mcu.regs = s.mcu.regs.set r v := rfl
@[simp] theorem State.writeReg_mcu_flags (s : State) (r : Reg) (v : Byte) :
    (s.writeReg r v).mcu.flags = s.mcu.flags := rfl
@[simp] theorem State.writeReg_mcu_pc (s : State) (r : Reg) (v : Byte) :
    (s.writeReg r v).mcu.pc = s.mcu.pc := rfl
@[simp] theorem State.writeReg_mcu_stk (s : State) (r : Reg) (v : Byte) :
    (s.writeReg r v).mcu.stk = s.mcu.stk := rfl
@[simp] theorem State.writeReg_mcu_ram (s : State) (r : Reg) (v : Byte) :
    (s.writeReg r v).mcu.ram = s.mcu.ram := rfl
@[simp] theorem State.writeReg_mcu_run (s : State) (r : Reg) (v : Byte) :
    (s.writeReg r v).mcu.run = s.mcu.run := rfl
@[simp] theorem State.writeReg_mcu_fault (s : State) (r : Reg) (v : Byte) :
    (s.writeReg r v).mcu.fault = s.mcu.fault := rfl
@[simp] theorem State.writeReg_mcu_fpc (s : State) (r : Reg) (v : Byte) :
    (s.writeReg r v).mcu.fpc = s.mcu.fpc := rfl

@[simp] theorem State.writePair_params (s : State) (p : Pair) (v : Word) :
    (s.writePair p v).params = s.params := rfl
@[simp] theorem State.writePair_prog (s : State) (p : Pair) (v : Word) :
    (s.writePair p v).prog = s.prog := rfl
@[simp] theorem State.writePair_bse (s : State) (p : Pair) (v : Word) :
    (s.writePair p v).bse = s.bse := rfl
@[simp] theorem State.writePair_inbox (s : State) (p : Pair) (v : Word) :
    (s.writePair p v).inbox = s.inbox := rfl
@[simp] theorem State.writePair_reply (s : State) (p : Pair) (v : Word) :
    (s.writePair p v).reply = s.reply := rfl
@[simp] theorem State.writePair_freeCount (s : State) (p : Pair) (v : Word) :
    (s.writePair p v).freeCount = s.freeCount := rfl
@[simp] theorem State.writePair_mcu_regs (s : State) (p : Pair) (v : Word) :
    (s.writePair p v).mcu.regs = s.mcu.regs.setPair p v := rfl
@[simp] theorem State.writePair_mcu_flags (s : State) (p : Pair) (v : Word) :
    (s.writePair p v).mcu.flags = s.mcu.flags := rfl
@[simp] theorem State.writePair_mcu_pc (s : State) (p : Pair) (v : Word) :
    (s.writePair p v).mcu.pc = s.mcu.pc := rfl
@[simp] theorem State.writePair_mcu_stk (s : State) (p : Pair) (v : Word) :
    (s.writePair p v).mcu.stk = s.mcu.stk := rfl
@[simp] theorem State.writePair_mcu_ram (s : State) (p : Pair) (v : Word) :
    (s.writePair p v).mcu.ram = s.mcu.ram := rfl
@[simp] theorem State.writePair_mcu_run (s : State) (p : Pair) (v : Word) :
    (s.writePair p v).mcu.run = s.mcu.run := rfl
@[simp] theorem State.writePair_mcu_fault (s : State) (p : Pair) (v : Word) :
    (s.writePair p v).mcu.fault = s.mcu.fault := rfl
@[simp] theorem State.writePair_mcu_fpc (s : State) (p : Pair) (v : Word) :
    (s.writePair p v).mcu.fpc = s.mcu.fpc := rfl

@[simp] theorem State.setFlags_params (s : State) (f : Flags) :
    (s.setFlags f).params = s.params := rfl
@[simp] theorem State.setFlags_prog (s : State) (f : Flags) :
    (s.setFlags f).prog = s.prog := rfl
@[simp] theorem State.setFlags_bse (s : State) (f : Flags) :
    (s.setFlags f).bse = s.bse := rfl
@[simp] theorem State.setFlags_inbox (s : State) (f : Flags) :
    (s.setFlags f).inbox = s.inbox := rfl
@[simp] theorem State.setFlags_reply (s : State) (f : Flags) :
    (s.setFlags f).reply = s.reply := rfl
@[simp] theorem State.setFlags_freeCount (s : State) (f : Flags) :
    (s.setFlags f).freeCount = s.freeCount := rfl
@[simp] theorem State.setFlags_mcu_regs (s : State) (f : Flags) :
    (s.setFlags f).mcu.regs = s.mcu.regs := rfl
@[simp] theorem State.setFlags_mcu_flags (s : State) (f : Flags) :
    (s.setFlags f).mcu.flags = f := rfl
@[simp] theorem State.setFlags_mcu_pc (s : State) (f : Flags) :
    (s.setFlags f).mcu.pc = s.mcu.pc := rfl
@[simp] theorem State.setFlags_mcu_stk (s : State) (f : Flags) :
    (s.setFlags f).mcu.stk = s.mcu.stk := rfl
@[simp] theorem State.setFlags_mcu_ram (s : State) (f : Flags) :
    (s.setFlags f).mcu.ram = s.mcu.ram := rfl
@[simp] theorem State.setFlags_mcu_run (s : State) (f : Flags) :
    (s.setFlags f).mcu.run = s.mcu.run := rfl
@[simp] theorem State.setFlags_mcu_fault (s : State) (f : Flags) :
    (s.setFlags f).mcu.fault = s.mcu.fault := rfl
@[simp] theorem State.setFlags_mcu_fpc (s : State) (f : Flags) :
    (s.setFlags f).mcu.fpc = s.mcu.fpc := rfl

@[simp] theorem State.setPc_params (s : State) (a : Word) :
    (s.setPc a).params = s.params := rfl
@[simp] theorem State.setPc_prog (s : State) (a : Word) :
    (s.setPc a).prog = s.prog := rfl
@[simp] theorem State.setPc_bse (s : State) (a : Word) :
    (s.setPc a).bse = s.bse := rfl
@[simp] theorem State.setPc_inbox (s : State) (a : Word) :
    (s.setPc a).inbox = s.inbox := rfl
@[simp] theorem State.setPc_reply (s : State) (a : Word) :
    (s.setPc a).reply = s.reply := rfl
@[simp] theorem State.setPc_freeCount (s : State) (a : Word) :
    (s.setPc a).freeCount = s.freeCount := rfl
@[simp] theorem State.setPc_mcu_regs (s : State) (a : Word) :
    (s.setPc a).mcu.regs = s.mcu.regs := rfl
@[simp] theorem State.setPc_mcu_flags (s : State) (a : Word) :
    (s.setPc a).mcu.flags = s.mcu.flags := rfl
@[simp] theorem State.setPc_mcu_pc (s : State) (a : Word) :
    (s.setPc a).mcu.pc = a := rfl
@[simp] theorem State.setPc_mcu_stk (s : State) (a : Word) :
    (s.setPc a).mcu.stk = s.mcu.stk := rfl
@[simp] theorem State.setPc_mcu_ram (s : State) (a : Word) :
    (s.setPc a).mcu.ram = s.mcu.ram := rfl
@[simp] theorem State.setPc_mcu_run (s : State) (a : Word) :
    (s.setPc a).mcu.run = s.mcu.run := rfl
@[simp] theorem State.setPc_mcu_fault (s : State) (a : Word) :
    (s.setPc a).mcu.fault = s.mcu.fault := rfl
@[simp] theorem State.setPc_mcu_fpc (s : State) (a : Word) :
    (s.setPc a).mcu.fpc = s.mcu.fpc := rfl

@[simp] theorem State.advance_params (s : State) (n : Nat) :
    (s.advance n).params = s.params := rfl
@[simp] theorem State.advance_prog (s : State) (n : Nat) :
    (s.advance n).prog = s.prog := rfl
@[simp] theorem State.advance_bse (s : State) (n : Nat) :
    (s.advance n).bse = s.bse := rfl
@[simp] theorem State.advance_inbox (s : State) (n : Nat) :
    (s.advance n).inbox = s.inbox := rfl
@[simp] theorem State.advance_reply (s : State) (n : Nat) :
    (s.advance n).reply = s.reply := rfl
@[simp] theorem State.advance_freeCount (s : State) (n : Nat) :
    (s.advance n).freeCount = s.freeCount := rfl
@[simp] theorem State.advance_mcu_regs (s : State) (n : Nat) :
    (s.advance n).mcu.regs = s.mcu.regs := rfl
@[simp] theorem State.advance_mcu_flags (s : State) (n : Nat) :
    (s.advance n).mcu.flags = s.mcu.flags := rfl
@[simp] theorem State.advance_mcu_pc (s : State) (n : Nat) :
    (s.advance n).mcu.pc = s.mcu.pc + BitVec.ofNat 16 n := rfl
@[simp] theorem State.advance_mcu_stk (s : State) (n : Nat) :
    (s.advance n).mcu.stk = s.mcu.stk := rfl
@[simp] theorem State.advance_mcu_ram (s : State) (n : Nat) :
    (s.advance n).mcu.ram = s.mcu.ram := rfl
@[simp] theorem State.advance_mcu_run (s : State) (n : Nat) :
    (s.advance n).mcu.run = s.mcu.run := rfl
@[simp] theorem State.advance_mcu_fault (s : State) (n : Nat) :
    (s.advance n).mcu.fault = s.mcu.fault := rfl
@[simp] theorem State.advance_mcu_fpc (s : State) (n : Nat) :
    (s.advance n).mcu.fpc = s.mcu.fpc := rfl

@[simp] theorem State.setRun_params (s : State) (r : RunState) :
    (s.setRun r).params = s.params := rfl
@[simp] theorem State.setRun_prog (s : State) (r : RunState) :
    (s.setRun r).prog = s.prog := rfl
@[simp] theorem State.setRun_bse (s : State) (r : RunState) :
    (s.setRun r).bse = s.bse := rfl
@[simp] theorem State.setRun_inbox (s : State) (r : RunState) :
    (s.setRun r).inbox = s.inbox := rfl
@[simp] theorem State.setRun_reply (s : State) (r : RunState) :
    (s.setRun r).reply = s.reply := rfl
@[simp] theorem State.setRun_freeCount (s : State) (r : RunState) :
    (s.setRun r).freeCount = s.freeCount := rfl
@[simp] theorem State.setRun_mcu_regs (s : State) (r : RunState) :
    (s.setRun r).mcu.regs = s.mcu.regs := rfl
@[simp] theorem State.setRun_mcu_flags (s : State) (r : RunState) :
    (s.setRun r).mcu.flags = s.mcu.flags := rfl
@[simp] theorem State.setRun_mcu_pc (s : State) (r : RunState) :
    (s.setRun r).mcu.pc = s.mcu.pc := rfl
@[simp] theorem State.setRun_mcu_stk (s : State) (r : RunState) :
    (s.setRun r).mcu.stk = s.mcu.stk := rfl
@[simp] theorem State.setRun_mcu_ram (s : State) (r : RunState) :
    (s.setRun r).mcu.ram = s.mcu.ram := rfl
@[simp] theorem State.setRun_mcu_run (s : State) (r : RunState) :
    (s.setRun r).mcu.run = r := rfl
@[simp] theorem State.setRun_mcu_fault (s : State) (r : RunState) :
    (s.setRun r).mcu.fault = s.mcu.fault := rfl
@[simp] theorem State.setRun_mcu_fpc (s : State) (r : RunState) :
    (s.setRun r).mcu.fpc = s.mcu.fpc := rfl

@[simp] theorem State.writeRam_params (s : State) (a : Word) (v : Byte) :
    (s.writeRam a v).params = s.params := rfl
@[simp] theorem State.writeRam_prog (s : State) (a : Word) (v : Byte) :
    (s.writeRam a v).prog = s.prog := rfl
@[simp] theorem State.writeRam_bse (s : State) (a : Word) (v : Byte) :
    (s.writeRam a v).bse = s.bse := rfl
@[simp] theorem State.writeRam_inbox (s : State) (a : Word) (v : Byte) :
    (s.writeRam a v).inbox = s.inbox := rfl
@[simp] theorem State.writeRam_reply (s : State) (a : Word) (v : Byte) :
    (s.writeRam a v).reply = s.reply := rfl
@[simp] theorem State.writeRam_freeCount (s : State) (a : Word) (v : Byte) :
    (s.writeRam a v).freeCount = s.freeCount := rfl
@[simp] theorem State.writeRam_mcu_regs (s : State) (a : Word) (v : Byte) :
    (s.writeRam a v).mcu.regs = s.mcu.regs := rfl
@[simp] theorem State.writeRam_mcu_flags (s : State) (a : Word) (v : Byte) :
    (s.writeRam a v).mcu.flags = s.mcu.flags := rfl
@[simp] theorem State.writeRam_mcu_pc (s : State) (a : Word) (v : Byte) :
    (s.writeRam a v).mcu.pc = s.mcu.pc := rfl
@[simp] theorem State.writeRam_mcu_stk (s : State) (a : Word) (v : Byte) :
    (s.writeRam a v).mcu.stk = s.mcu.stk := rfl
@[simp] theorem State.writeRam_mcu_ram (s : State) (a : Word) (v : Byte) :
    (s.writeRam a v).mcu.ram = Memory.write s.mcu.ram a v := rfl
@[simp] theorem State.writeRam_mcu_run (s : State) (a : Word) (v : Byte) :
    (s.writeRam a v).mcu.run = s.mcu.run := rfl
@[simp] theorem State.writeRam_mcu_fault (s : State) (a : Word) (v : Byte) :
    (s.writeRam a v).mcu.fault = s.mcu.fault := rfl
@[simp] theorem State.writeRam_mcu_fpc (s : State) (a : Word) (v : Byte) :
    (s.writeRam a v).mcu.fpc = s.mcu.fpc := rfl

@[simp] theorem State.setStk_params (s : State) (l : List Word) :
    (s.setStk l).params = s.params := rfl
@[simp] theorem State.setStk_prog (s : State) (l : List Word) :
    (s.setStk l).prog = s.prog := rfl
@[simp] theorem State.setStk_bse (s : State) (l : List Word) :
    (s.setStk l).bse = s.bse := rfl
@[simp] theorem State.setStk_inbox (s : State) (l : List Word) :
    (s.setStk l).inbox = s.inbox := rfl
@[simp] theorem State.setStk_reply (s : State) (l : List Word) :
    (s.setStk l).reply = s.reply := rfl
@[simp] theorem State.setStk_freeCount (s : State) (l : List Word) :
    (s.setStk l).freeCount = s.freeCount := rfl
@[simp] theorem State.setStk_mcu_regs (s : State) (l : List Word) :
    (s.setStk l).mcu.regs = s.mcu.regs := rfl
@[simp] theorem State.setStk_mcu_flags (s : State) (l : List Word) :
    (s.setStk l).mcu.flags = s.mcu.flags := rfl
@[simp] theorem State.setStk_mcu_pc (s : State) (l : List Word) :
    (s.setStk l).mcu.pc = s.mcu.pc := rfl
@[simp] theorem State.setStk_mcu_stk (s : State) (l : List Word) :
    (s.setStk l).mcu.stk = l := rfl
@[simp] theorem State.setStk_mcu_ram (s : State) (l : List Word) :
    (s.setStk l).mcu.ram = s.mcu.ram := rfl
@[simp] theorem State.setStk_mcu_run (s : State) (l : List Word) :
    (s.setStk l).mcu.run = s.mcu.run := rfl
@[simp] theorem State.setStk_mcu_fault (s : State) (l : List Word) :
    (s.setStk l).mcu.fault = s.mcu.fault := rfl
@[simp] theorem State.setStk_mcu_fpc (s : State) (l : List Word) :
    (s.setStk l).mcu.fpc = s.mcu.fpc := rfl

@[simp] theorem State.pushStk_params (s : State) (v : Word) :
    (s.pushStk v).params = s.params := rfl
@[simp] theorem State.pushStk_prog (s : State) (v : Word) :
    (s.pushStk v).prog = s.prog := rfl
@[simp] theorem State.pushStk_bse (s : State) (v : Word) :
    (s.pushStk v).bse = s.bse := rfl
@[simp] theorem State.pushStk_inbox (s : State) (v : Word) :
    (s.pushStk v).inbox = s.inbox := rfl
@[simp] theorem State.pushStk_reply (s : State) (v : Word) :
    (s.pushStk v).reply = s.reply := rfl
@[simp] theorem State.pushStk_freeCount (s : State) (v : Word) :
    (s.pushStk v).freeCount = s.freeCount := rfl
@[simp] theorem State.pushStk_mcu_regs (s : State) (v : Word) :
    (s.pushStk v).mcu.regs = s.mcu.regs := rfl
@[simp] theorem State.pushStk_mcu_flags (s : State) (v : Word) :
    (s.pushStk v).mcu.flags = s.mcu.flags := rfl
@[simp] theorem State.pushStk_mcu_pc (s : State) (v : Word) :
    (s.pushStk v).mcu.pc = s.mcu.pc := rfl
@[simp] theorem State.pushStk_mcu_stk (s : State) (v : Word) :
    (s.pushStk v).mcu.stk = v :: s.mcu.stk := rfl
@[simp] theorem State.pushStk_mcu_ram (s : State) (v : Word) :
    (s.pushStk v).mcu.ram = s.mcu.ram := rfl
@[simp] theorem State.pushStk_mcu_run (s : State) (v : Word) :
    (s.pushStk v).mcu.run = s.mcu.run := rfl
@[simp] theorem State.pushStk_mcu_fault (s : State) (v : Word) :
    (s.pushStk v).mcu.fault = s.mcu.fault := rfl
@[simp] theorem State.pushStk_mcu_fpc (s : State) (v : Word) :
    (s.pushStk v).mcu.fpc = s.mcu.fpc := rfl

@[simp] theorem State.raise_params (s : State) (k : McuFault) :
    (s.raise k).params = s.params := rfl
@[simp] theorem State.raise_prog (s : State) (k : McuFault) :
    (s.raise k).prog = s.prog := rfl
@[simp] theorem State.raise_bse (s : State) (k : McuFault) :
    (s.raise k).bse = s.bse := rfl
@[simp] theorem State.raise_inbox (s : State) (k : McuFault) :
    (s.raise k).inbox = s.inbox := rfl
@[simp] theorem State.raise_reply (s : State) (k : McuFault) :
    (s.raise k).reply = s.reply := rfl
@[simp] theorem State.raise_freeCount (s : State) (k : McuFault) :
    (s.raise k).freeCount = s.freeCount := rfl
@[simp] theorem State.raise_mcu_regs (s : State) (k : McuFault) :
    (s.raise k).mcu.regs = s.mcu.regs := rfl
@[simp] theorem State.raise_mcu_flags (s : State) (k : McuFault) :
    (s.raise k).mcu.flags = s.mcu.flags := rfl
@[simp] theorem State.raise_mcu_pc (s : State) (k : McuFault) :
    (s.raise k).mcu.pc = s.mcu.pc := rfl
@[simp] theorem State.raise_mcu_stk (s : State) (k : McuFault) :
    (s.raise k).mcu.stk = s.mcu.stk := rfl
@[simp] theorem State.raise_mcu_ram (s : State) (k : McuFault) :
    (s.raise k).mcu.ram = s.mcu.ram := rfl
@[simp] theorem State.raise_mcu_run (s : State) (k : McuFault) :
    (s.raise k).mcu.run = .faulted := rfl
@[simp] theorem State.raise_mcu_fault (s : State) (k : McuFault) :
    (s.raise k).mcu.fault = some k := rfl
@[simp] theorem State.raise_mcu_fpc (s : State) (k : McuFault) :
    (s.raise k).mcu.fpc = s.mcu.pc := rfl

@[simp] theorem State.raiseBse_params (s : State) (k : BseFault) :
    (s.raiseBse k).params = s.params := rfl
@[simp] theorem State.raiseBse_prog (s : State) (k : BseFault) :
    (s.raiseBse k).prog = s.prog := rfl
@[simp] theorem State.raiseBse_mcu (s : State) (k : BseFault) :
    (s.raiseBse k).mcu = s.mcu := rfl
@[simp] theorem State.raiseBse_bse (s : State) (k : BseFault) :
    (s.raiseBse k).bse = { s.bse with bfault := some k } := rfl
@[simp] theorem State.raiseBse_inbox (s : State) (k : BseFault) :
    (s.raiseBse k).inbox = s.inbox := rfl
@[simp] theorem State.raiseBse_reply (s : State) (k : BseFault) :
    (s.raiseBse k).reply = s.reply := rfl
@[simp] theorem State.raiseBse_freeCount (s : State) (k : BseFault) :
    (s.raiseBse k).freeCount = s.freeCount := rfl

@[simp] theorem State.setBse_params (s : State) (e : Bse) :
    (s.setBse e).params = s.params := rfl
@[simp] theorem State.setBse_prog (s : State) (e : Bse) :
    (s.setBse e).prog = s.prog := rfl
@[simp] theorem State.setBse_mcu (s : State) (e : Bse) :
    (s.setBse e).mcu = s.mcu := rfl
@[simp] theorem State.setBse_bse (s : State) (e : Bse) :
    (s.setBse e).bse = e := rfl
@[simp] theorem State.setBse_inbox (s : State) (e : Bse) :
    (s.setBse e).inbox = s.inbox := rfl
@[simp] theorem State.setBse_reply (s : State) (e : Bse) :
    (s.setBse e).reply = s.reply := rfl
@[simp] theorem State.setBse_freeCount (s : State) (e : Bse) :
    (s.setBse e).freeCount = s.freeCount := rfl

@[simp] theorem State.answer_params (s : State) (r : Reply) :
    (s.answer r).params = s.params := rfl
@[simp] theorem State.answer_prog (s : State) (r : Reply) :
    (s.answer r).prog = s.prog := rfl
@[simp] theorem State.answer_mcu (s : State) (r : Reply) :
    (s.answer r).mcu = s.mcu := rfl
@[simp] theorem State.answer_bse (s : State) (r : Reply) :
    (s.answer r).bse = s.bse := rfl
@[simp] theorem State.answer_inbox (s : State) (r : Reply) :
    (s.answer r).inbox = s.inbox := rfl
@[simp] theorem State.answer_reply (s : State) (r : Reply) :
    (s.answer r).reply = r := rfl
@[simp] theorem State.answer_freeCount (s : State) (r : Reply) :
    (s.answer r).freeCount = s.freeCount := rfl

end Sys2Proof.Machine
end

