-- ==== Sys2Proof/Laws/Bse.lean ====
section
/-! SUPPORT. What the BSE's shared operations can do, said once. -/

namespace Sys2Proof.Machine

theorem getLsbD_oneAt {i j : Nat} (hi : i < 8) : (1#8 <<< i).getLsbD j = decide (j = i) := by
  by_cases h : j = i
  · subst h
    simp [hi]
  · rw [BitVec.getLsbD_shiftLeft, decide_eq_false h]
    by_cases hlt : j < i
    · simp [hlt]
    · have : j - i ≠ 0 := by omega
      simp [BitVec.getLsbD_one, this]

/-- A byte with one bit replaced, bit by bit. -/
theorem getLsbD_putBitAt (v : Byte) {i : Nat} (hi : i < 8) (b : Bool) (j : Nat) :
    (putBitAt v i b).getLsbD j = if j = i then b else v.getLsbD j := by
  unfold putBitAt
  by_cases hj : j < 8
  · rw [BitVec.getLsbD_or, BitVec.getLsbD_and, BitVec.getLsbD_not, getLsbD_oneAt hi]
    cases b
    · by_cases h : j = i <;> simp [h, hj]
    · rw [if_pos rfl, getLsbD_oneAt hi]
      by_cases h : j = i <;> simp [h, hj]
  · have h2 : ∀ w : Byte, w.getLsbD j = false := fun w => BitVec.getLsbD_of_ge _ _ (by omega)
    rw [h2, h2, if_neg (by omega)]

/-- Everything a command other than `BSINIT` can do (rules R240, R241). -/
theorem State.bseUnlessFaulted_cases (s act : State) :
    (s.bse.bfault ≠ none ∧ s.bseUnlessFaulted act = .next s)
      ∨ (s.bse.bfault = none ∧ s.bseUnlessFaulted act = .next act) := by
  unfold State.bseUnlessFaulted
  cases h : s.bse.bfault with
  | none => exact .inr ⟨rfl, rfl⟩
  | some k => exact .inl ⟨nofun, rfl⟩

theorem State.bseUnlessFaulted_none {s : State} (h : s.bse.bfault = none) (act : State) :
    s.bseUnlessFaulted act = .next act := by
  unfold State.bseUnlessFaulted
  rw [h]

/-- Everything `PUTBIT` can do while no fault is set (rule R132). -/
theorem execPutbit_cases {s : State} (h : s.bse.bfault = none) (b : Bool) :
    (s.bse.cnt = 0#3 ∧ s.bse.wp = s.params.outCap ∧ execPutbit b s = .next (s.raiseBse .outputFull))
      ∨ (¬(s.bse.cnt = 0#3 ∧ s.bse.wp = s.params.outCap) ∧ execPutbit b s = .next (s.setBse (s.bse.putBit b))) := by
  unfold execPutbit
  rw [State.bseUnlessFaulted_none h]
  by_cases hc : s.bse.cnt = 0#3 ∧ s.bse.wp = s.params.outCap
  · exact .inl ⟨hc.1, hc.2, by rw [if_pos (by simpa [State.outFull] using hc)]⟩
  · exact .inr ⟨hc, by rw [if_neg (by simpa [State.outFull] using hc)]⟩

/-- Everything `PUTBITS` can do while no fault is set (rule R133). -/
theorem execPutbits_cases {s : State} (h : s.bse.bfault = none) (n : BitVec 4) (v : Byte) :
    ((n.toNat = 0 ∨ 8 < n.toNat) ∧ execPutbits n v s = .next (s.raiseBse .badCommand))
      ∨ (1 ≤ n.toNat ∧ n.toNat ≤ 8 ∧ (s.bse.cnt = 0#3 ∨ 8 < s.bse.cnt.toNat + n.toNat) ∧ s.bse.wp = s.params.outCap
        ∧ execPutbits n v s = .next (s.raiseBse .outputFull))
      ∨ (1 ≤ n.toNat ∧ n.toNat ≤ 8
        ∧ ¬((s.bse.cnt = 0#3 ∨ 8 < s.bse.cnt.toNat + n.toNat) ∧ s.bse.wp = s.params.outCap)
        ∧ execPutbits n v s = .next (s.setBse (Bse.putBits n.toNat v s.bse))) := by
  unfold execPutbits
  rw [State.bseUnlessFaulted_none h]
  by_cases hb : n.toNat = 0 ∨ 8 < n.toNat
  · exact .inl ⟨hb, by rw [if_pos hb]⟩
  · rw [if_neg hb]
    by_cases hc : (s.bse.cnt = 0#3 ∨ 8 < s.bse.cnt.toNat + n.toNat) ∧ s.bse.wp = s.params.outCap
    · exact .inr (.inl ⟨by omega, by omega, hc.1, hc.2,
        by rw [if_pos (by simpa [Bse.needsSlot, State.outFull] using hc)]⟩)
    · exact .inr (.inr ⟨by omega, by omega, hc,
        by rw [if_neg (by simpa [Bse.needsSlot, State.outFull] using hc)]⟩)

/-- Everything `PUTBYTE` can do while no fault is set (rule R135). -/
theorem execPutbyte_cases {s : State} (h : s.bse.bfault = none) (v : Byte) :
    (s.bse.wp = s.params.outCap ∧ execPutbyte v s = .next (s.raiseBse .outputFull))
      ∨ (s.bse.wp ≠ s.params.outCap ∧ execPutbyte v s = .next (s.setBse (s.bse.putByte v))) := by
  unfold execPutbyte
  rw [State.bseUnlessFaulted_none h]
  by_cases hc : s.bse.wp = s.params.outCap
  · exact .inl ⟨hc, by rw [if_pos (by simpa [State.outFull] using hc)]⟩
  · exact .inr ⟨hc, by rw [if_neg (by simpa [State.outFull] using hc)]⟩

/-- What `FLUSH` does while no fault is set (rule R134). -/
theorem execFlush_none {s : State} (h : s.bse.bfault = none) : execFlush s = .next (s.setBse s.bse.flush) :=
  State.bseUnlessFaulted_none h _

/-- The claim of a slot (rule R131). -/
theorem Bse.claim_cases (e : Bse) :
    (e.cnt = 0#3 ∧ e.claim = { e with slot := e.wp, wp := e.wp + 1 }) ∨ (e.cnt ≠ 0#3 ∧ e.claim = e) := by
  unfold Bse.claim
  by_cases h : e.cnt = 0#3
  · exact .inl ⟨h, if_pos h⟩
  · exact .inr ⟨h, if_neg h⟩

/-- The bit taken (rule R131). -/
theorem Bse.accept_cases (e : Bse) (b : Bool) :
    (e.cnt = 7#3 ∧ e.accept b = { e with
        out := Memory.put e.slot (putBitAt e.acc 0 b) e.out, acc := 0x00#8, cnt := 0#3 })
      ∨ (e.cnt ≠ 7#3 ∧ e.accept b = { e with
        acc := putBitAt e.acc (7 - e.cnt.toNat) b, cnt := e.cnt + 1#3 }) := by
  unfold Bse.accept
  by_cases h : e.cnt = 7#3
  · left
    refine ⟨h, ?_⟩
    rw [if_pos h, h]
    rfl
  · exact .inr ⟨h, if_neg h⟩

@[simp] theorem Bse.claim_cnt (e : Bse) : e.claim.cnt = e.cnt := by
  rcases e.claim_cases with ⟨_, h⟩ | ⟨_, h⟩ <;> rw [h]

@[simp] theorem Bse.claim_acc (e : Bse) : e.claim.acc = e.acc := by
  rcases e.claim_cases with ⟨_, h⟩ | ⟨_, h⟩ <;> rw [h]

@[simp] theorem Bse.claim_out (e : Bse) : e.claim.out = e.out := by
  rcases e.claim_cases with ⟨_, h⟩ | ⟨_, h⟩ <;> rw [h]

@[simp] theorem Bse.claim_bfault (e : Bse) : e.claim.bfault = e.bfault := by
  rcases e.claim_cases with ⟨_, h⟩ | ⟨_, h⟩ <;> rw [h]

@[simp] theorem Bse.putBit_bfault (e : Bse) (b : Bool) : (e.putBit b).bfault = e.bfault := by
  unfold Bse.putBit
  rcases e.claim.accept_cases b with ⟨_, h⟩ | ⟨_, h⟩ <;> simp [h]

/-- `CNT` counts the bits modulo 8 (rule R131). -/
@[simp] theorem Bse.putBit_cnt (e : Bse) (b : Bool) : (e.putBit b).cnt = e.cnt + 1#3 := by
  unfold Bse.putBit
  rcases e.claim.accept_cases b with ⟨hc, h⟩ | ⟨_, h⟩
  · rw [Bse.claim_cnt] at hc
    rw [h, hc]
    rfl
  · rw [h]
    simp

/-- A position is claimed exactly by the first bit of a byte (rule R131). -/
theorem Bse.putBit_wp (e : Bse) (b : Bool) : (e.putBit b).wp = if e.cnt = 0#3 then e.wp + 1 else e.wp := by
  unfold Bse.putBit
  rcases e.claim_cases with ⟨hz, hc⟩ | ⟨hz, hc⟩ <;>
    rcases e.claim.accept_cases b with ⟨_, h⟩ | ⟨_, h⟩ <;> rw [h, hc] <;> simp [hz]

theorem Bse.putBit_slot (e : Bse) (b : Bool) : (e.putBit b).slot = if e.cnt = 0#3 then e.wp else e.slot := by
  unfold Bse.putBit
  rcases e.claim_cases with ⟨hz, hc⟩ | ⟨hz, hc⟩ <;>
    rcases e.claim.accept_cases b with ⟨_, h⟩ | ⟨_, h⟩ <;> rw [h, hc] <;> simp [hz]

/-- The bits of a code go in one after another (rule R133). -/
@[simp] theorem Bse.putBits_zero (v : Byte) (e : Bse) : Bse.putBits 0 v e = e := rfl

@[simp] theorem Bse.putBits_succ (n : Nat) (v : Byte) (e : Bse) :
    Bse.putBits (n + 1) v e = Bse.putBits n v (e.putBit (v.getLsbD n)) := rfl

@[simp] theorem Bse.putBits_bfault (n : Nat) (v : Byte) (e : Bse) : (Bse.putBits n v e).bfault = e.bfault := by
  induction n generalizing e with
  | zero => rfl
  | succ n ih => rw [Bse.putBits_succ, ih, Bse.putBit_bfault]

/-- Everything `FLUSH` does to the encoder (rule R134). -/
theorem Bse.flush_cases (e : Bse) :
    (e.cnt = 0#3 ∧ e.flush = e)
      ∨ (e.cnt ≠ 0#3 ∧ e.flush = { e with out := Memory.put e.slot e.acc e.out, acc := 0x00#8, cnt := 0#3 }) := by
  unfold Bse.flush
  by_cases h : e.cnt = 0#3
  · exact .inl ⟨h, if_pos h⟩
  · exact .inr ⟨h, if_neg h⟩

end Sys2Proof.Machine
end

