-- ==== Sys2Proof/Laws/Ops.lean ====
section
/-! SUPPORT. What each shared operation over registers, RAM and the stack can do, said once. -/

namespace Sys2Proof.Machine

/-! ## Bytes and words -/

/-- A pair's value is 256 times its high byte and its low byte. -/
theorem joinBytes_toNat (h l : Byte) : (joinBytes h l).toNat = h.toNat * 256 + l.toNat := by
  unfold joinBytes
  rw [BitVec.toNat_append, Nat.shiftLeft_eq, Nat.mul_comm, ← Nat.two_pow_add_eq_or_of_lt l.isLt, Nat.mul_comm]

theorem highByte_toNat (w : Word) : (highByte w).toNat = w.toNat / 256 := by
  unfold highByte
  have := w.isLt
  rw [BitVec.extractLsb'_toNat, Nat.shiftRight_eq_div_pow]
  omega

theorem lowByte_toNat (w : Word) : (lowByte w).toNat = w.toNat % 256 := by
  unfold lowByte
  rw [BitVec.extractLsb'_toNat, Nat.shiftRight_zero]

@[simp] theorem highByte_joinBytes (h l : Byte) : highByte (joinBytes h l) = h := by
  have := l.isLt
  apply BitVec.eq_of_toNat_eq
  rw [highByte_toNat, joinBytes_toNat]
  omega

@[simp] theorem lowByte_joinBytes (h l : Byte) : lowByte (joinBytes h l) = l := by
  have := l.isLt
  apply BitVec.eq_of_toNat_eq
  rw [lowByte_toNat, joinBytes_toNat]
  omega

@[simp] theorem joinBytes_high_low (w : Word) : joinBytes (highByte w) (lowByte w) = w := by
  apply BitVec.eq_of_toNat_eq
  rw [joinBytes_toNat, highByte_toNat, lowByte_toNat]
  omega

/-! ## The register file -/

@[simp] theorem RegFile.get_set_same (f : RegFile) (r : Reg) (v : Byte) : (f.set r v).get r = v := by
  cases r <;> rfl

theorem RegFile.get_set_other {r q : Reg} (h : q ≠ r) (f : RegFile) (v : Byte) : (f.set r v).get q = f.get q := by
  cases r <;> cases q <;> first | rfl | exact absurd rfl h

theorem RegFile.get_set (f : RegFile) (r q : Reg) (v : Byte) :
    (f.set r v).get q = if q = r then v else f.get q := by
  split
  · rename_i h
    subst h
    exact RegFile.get_set_same _ _ _
  · rename_i h
    exact RegFile.get_set_other h _ _

/-- Two register files that read alike are equal. -/
theorem RegFile.ext_get {f g : RegFile} (h : ∀ r, f.get r = g.get r) : f = g := by
  cases f
  cases g
  have h0 := h .r0
  have h1 := h .r1
  have h2 := h .r2
  have h3 := h .r3
  have h4 := h .r4
  have h5 := h .r5
  have h6 := h .r6
  have h7 := h .r7
  simp only [RegFile.get] at h0 h1 h2 h3 h4 h5 h6 h7
  simp [*]

theorem pairHi_ne_pairLo (p q : Pair) : pairHi p ≠ pairLo q := by
  cases p <;> cases q <;> decide

/-- A write of a pair, register by register (rule R21). -/
theorem RegFile.get_setPair (f : RegFile) (p : Pair) (v : Word) (r : Reg) :
    (f.setPair p v).get r = if r = pairHi p then highByte v else if r = pairLo p then lowByte v else f.get r := by
  unfold RegFile.setPair
  rw [RegFile.get_set, RegFile.get_set]
  split
  · rename_i h
    rw [if_neg (h ▸ (pairHi_ne_pairLo p p).symm)]
  · rfl

@[simp] theorem RegFile.getPair_setPair_same (f : RegFile) (p : Pair) (v : Word) : (f.setPair p v).getPair p = v := by
  unfold RegFile.getPair
  rw [RegFile.get_setPair, RegFile.get_setPair, if_pos rfl, if_neg (pairHi_ne_pairLo p p).symm, if_pos rfl,
    joinBytes_high_low]

theorem RegFile.getPair_setPair_other {p q : Pair} (h : q ≠ p) (f : RegFile) (v : Word) :
    (f.setPair p v).getPair q = f.getPair q := by
  cases p <;> cases q <;> first | rfl | exact absurd rfl h

/-! ## The same through State -/

theorem State.readReg_writeReg (s : State) (r q : Reg) (v : Byte) :
    (s.writeReg r v).readReg q = if q = r then v else s.readReg q :=
  RegFile.get_set _ _ _ _

theorem State.readReg_writePair (s : State) (p : Pair) (v : Word) (r : Reg) :
    (s.writePair p v).readReg r
      = if r = pairHi p then highByte v else if r = pairLo p then lowByte v else s.readReg r :=
  RegFile.get_setPair _ _ _ _

@[simp] theorem State.readPair_writePair_same (s : State) (p : Pair) (v : Word) : (s.writePair p v).readPair p = v :=
  RegFile.getPair_setPair_same _ _ _

theorem State.readPair_writePair_other {p q : Pair} (h : q ≠ p) (s : State) (v : Word) :
    (s.writePair p v).readPair q = s.readPair q :=
  RegFile.getPair_setPair_other h _ _

theorem State.readRam_writeRam (s : State) (a b : Word) (v : Byte) :
    (s.writeRam a v).readRam b = if b = a then v else s.readRam b :=
  Memory.read_write _ _ _ _

/-- A pair is its two halves (rule R21). -/
theorem State.readPair_eq (s : State) (p : Pair) :
    s.readPair p = joinBytes (s.readReg (pairHi p)) (s.readReg (pairLo p)) := rfl

/-- What a register reads as depends on the register file alone. -/
theorem State.readReg_congr {s t : State} (h : t.mcu.regs = s.mcu.regs) (r : Reg) : t.readReg r = s.readReg r := by
  unfold State.readReg
  rw [h]

/-- What a pair reads as depends on the register file alone. -/
theorem State.readPair_congr {s t : State} (h : t.mcu.regs = s.mcu.regs) (p : Pair) : t.readPair p = s.readPair p := by
  unfold State.readPair
  rw [h]

/-- What a byte of RAM reads as depends on RAM alone. -/
theorem State.readRam_congr {s t : State} (h : t.mcu.ram = s.mcu.ram) (a : Word) : t.readRam a = s.readRam a := by
  unfold State.readRam
  rw [h]

/-! ## Calls and returns -/

/-- Everything a call can do (rule R212). -/
theorem State.callTo_cases (s : State) (nn : Word) :
    (s.sd = s.params.stackDepth ∧ s.callTo nn = s.raise .stackOverflow)
      ∨ (s.sd ≠ s.params.stackDepth ∧ s.callTo nn = (s.pushStk (s.pcPlus 3)).setPc nn) := by
  unfold State.callTo State.stkFull
  by_cases h : s.sd = s.params.stackDepth
  · exact .inl ⟨h, by simp [h]⟩
  · exact .inr ⟨h, by simp [h]⟩

/-- Everything a return can do (rule R214). -/
theorem State.returnTop_cases (s : State) :
    (s.mcu.stk = [] ∧ s.returnTop = s.raise .stackUnderflow)
      ∨ ∃ t rest, s.mcu.stk = t :: rest ∧ s.returnTop = (s.setStk rest).setPc t := by
  unfold State.returnTop
  cases h : s.mcu.stk with
  | nil => exact .inl ⟨rfl, rfl⟩
  | cons t rest => exact .inr ⟨t, rest, rfl, rfl⟩

/-- Everything `PUSH` can do (rule R200). -/
theorem execPush_cases (wp : Pair) (s : State) :
    (s.sd = s.params.stackDepth ∧ execPush wp s = .next (s.raise .stackOverflow))
      ∨ (s.sd ≠ s.params.stackDepth ∧ execPush wp s = .next ((s.pushStk (s.readPair wp)).advance 1)) := by
  unfold execPush State.stkFull
  by_cases h : s.sd = s.params.stackDepth
  · exact .inl ⟨h, by simp [h]⟩
  · exact .inr ⟨h, by simp [h]⟩

/-- Everything `POP` can do (rule R201). -/
theorem execPop_cases (wp : Pair) (s : State) :
    (s.mcu.stk = [] ∧ execPop wp s = .next (s.raise .stackUnderflow))
      ∨ ∃ t rest, s.mcu.stk = t :: rest ∧ execPop wp s = .next (((s.setStk rest).writePair wp t).advance 1) := by
  unfold execPop
  cases h : s.mcu.stk with
  | nil => exact .inl ⟨rfl, rfl⟩
  | cons t rest => exact .inr ⟨t, rest, rfl, rfl⟩

/-- Everything `XTS` can do (rule R202). -/
theorem execXts_cases (wp : Pair) (s : State) :
    (s.mcu.stk = [] ∧ execXts wp s = .next (s.raise .stackUnderflow))
      ∨ ∃ t rest, s.mcu.stk = t :: rest
        ∧ execXts wp s = .next (((s.setStk (s.readPair wp :: rest)).writePair wp t).advance 1) := by
  unfold execXts
  cases h : s.mcu.stk with
  | nil => exact .inl ⟨rfl, rfl⟩
  | cons t rest => exact .inr ⟨t, rest, rfl, rfl⟩

/-! ## The block-copy step -/

/-- The pairs after a block-copy step (rule R190). -/
theorem State.bcStep_pairs (s : State) (dir : Word) :
    (s.bcStep dir).readPair .w2 = s.readPair .w2 + dir ∧ (s.bcStep dir).readPair .w1 = s.readPair .w1 + dir
      ∧ (s.bcStep dir).readPair .w0 = s.readPair .w0 - 1#16 ∧ (s.bcStep dir).readPair .w3 = s.readPair .w3 := by
  unfold State.bcStep State.bcCountdown bcSource bcDest bcCount
  refine ⟨?_, ?_, ?_, ?_⟩ <;>
    simp only [State.readPair_writePair_same, State.readPair_writePair_other, ne_eq, reduceCtorEq,
      not_false_eq_true] <;> rfl

/-- RAM after a block-copy step: one byte copied (rule R190). -/
theorem State.bcStep_ram (s : State) (dir : Word) (a : Word) :
    (s.bcStep dir).readRam a = if a = s.readPair .w1 then s.readRam (s.readPair .w2) else s.readRam a :=
  State.readRam_writeRam _ _ _ _

/-- A block-copy step writes registers and RAM alone. -/
theorem State.bcStep_frame (s : State) (dir : Word) :
    s.bcStep dir = { s with mcu := { s.mcu with
      regs := (s.bcStep dir).mcu.regs, ram := (s.bcStep dir).mcu.ram } } := rfl

/-- A repeating block copy writes registers and RAM alone. -/
theorem State.bcRepeat_frame (dir : Word) (n : Nat) (s : State) :
    State.bcRepeat dir n s = { s with mcu := { s.mcu with
      regs := (State.bcRepeat dir n s).mcu.regs, ram := (State.bcRepeat dir n s).mcu.ram } } := by
  induction n generalizing s with
  | zero => rfl
  | succ n ih =>
    simp only [State.bcRepeat]
    split
    · rfl
    · rw [ih (s.bcStep dir)]
      rfl

end Sys2Proof.Machine
end

