-- ==== Sys2Proof/Laws/Cycle.lean ====
section
/-! SUPPORT. What a step can do: one inversion lemma for each layer around `exec`. -/

namespace Sys2Proof.Machine

/-- Everything a step can do: the MCU's move when the inbox is empty, else the first move of the inbox. -/
theorem step_cases (s : State) :
    (s.inbox = [] ∧ step s = mcuMove s)
      ∨ ∃ m rest, s.inbox = m :: rest ∧ step s = makeMove m { s with inbox := rest } := by
  unfold step nextMove
  cases h : s.inbox with
  | nil => exact .inl ⟨rfl, rfl⟩
  | cons m rest => exact .inr ⟨m, rest, rfl, rfl⟩

/-- Everything the MCU's move can do (rules R232, R272). -/
theorem mcuMove_cases (s : State) :
    (s.mcu.run ≠ .running ∧ mcuMove s = .next s)
      ∨ (s.mcu.run = .running ∧
        ((∃ i, s.fetchInstr = .instr i ∧ mcuMove s = exec i s)
          ∨ (∃ k, s.fetchInstr = .fault k ∧ mcuMove s = .next (s.raise k))
          ∨ ∃ a, s.fetchInstr = .unloaded a ∧ mcuMove s = .fault (.unloadedProgramByte a))) := by
  unfold mcuMove mcuCycle
  cases s.mcu.run with
  | running =>
    refine .inr ⟨rfl, ?_⟩
    cases h : s.fetchInstr with
    | instr i => exact .inl ⟨i, rfl, rfl⟩
    | fault k => exact .inr (.inl ⟨k, rfl, rfl⟩)
    | unloaded a => exact .inr (.inr ⟨a, rfl, rfl⟩)
  | stopped => exact .inl ⟨nofun, rfl⟩
  | halted => exact .inl ⟨nofun, rfl⟩
  | faulted => exact .inl ⟨nofun, rfl⟩

/-- Everything a command word can do (rules R240, R263). -/
theorem bseCommand_cases (w : Word) (s : State) :
    (∃ i rest, decodeBse w = .instr i rest ∧ bseCommand w s = exec i s)
      ∨ ∃ why, decodeBse w = .reject why ∧ bseCommand w s = .next (s.badCommand (cmdOp w)) := by
  unfold bseCommand
  cases h : decodeBse w with
  | instr i rest => exact .inl ⟨i, rest, rfl, rfl⟩
  | reject why => exact .inr ⟨why, rfl, rfl⟩

/-- Everything a transaction allowed in STOPPED only can do (rule R263). -/
theorem State.whenStopped_cases (s : State) (t : Option State) :
    (∃ u, s.mcu.run = .stopped ∧ t = some u ∧ s.whenStopped t = u.answer .nothing)
      ∨ s.whenStopped t = s.answer .refused := by
  unfold State.whenStopped
  cases s.mcu.run <;> cases t <;> first | exact .inr rfl | exact .inl ⟨_, rfl, rfl, rfl⟩

/-- A read changes nothing but the reply (rule R263). -/
theorem State.readUnlessRunning_cases (s : State) (v : Option Nat) :
    (s.mcu.run = .running ∧ s.readUnlessRunning v = s.answer .refused)
      ∨ (s.mcu.run ≠ .running ∧ s.readUnlessRunning v = s.answer (replyOf v)) := by
  unfold State.readUnlessRunning
  cases s.mcu.run <;> first | exact .inl ⟨rfl, rfl⟩ | exact .inr ⟨nofun, rfl⟩

/-- Everything BSEOUT can do (rules R137, R263). -/
theorem State.hostBseOut_cases (s : State) (i : Nat) :
    (s.bse.wp ≤ i ∧ s.hostBseOut i = s.answer .refused)
      ∨ s.hostBseOut i = s.unspecifiedRead
      ∨ ∃ v, s.bse.outAt i = some v ∧ s.hostBseOut i = s.answer (.value v.toNat) := by
  unfold State.hostBseOut
  by_cases h : s.bse.wp ≤ i
  · exact .inl ⟨h, if_pos h⟩
  · rw [if_neg h]
    by_cases hp : s.bse.pendingAt i = true
    · rw [if_pos hp]
      exact .inr (.inl rfl)
    · rw [if_neg hp]
      cases hv : s.bse.outAt i with
      | none => exact .inr (.inl rfl)
      | some v => exact .inr (.inr ⟨v, rfl, rfl⟩)

/-- An illegal command word changes `BFAULT` at most (rule R240). -/
theorem State.badCommand_cases (s : State) (op : BitVec 4) :
    s.badCommand op = s.raiseBse .badCommand ∨ s.badCommand op = s := by
  unfold State.badCommand
  split
  · exact .inl rfl
  · exact .inr rfl

end Sys2Proof.Machine
end

