-- ==== Sys2Proof/Laws/PerInstr.lean ====
section
/-! SUPPORT. Facts about every instruction as syntax, one lemma for each constructor. -/

namespace Sys2Proof.Laws.EncodedSize

/-- An instruction's encoding takes the bytes that its format says (rules R91, R113). -/
def Statement (i : Instr) : Prop := (encode i).size = i.size

theorem nop : Statement .nop := rfl
theorem halt : Statement .halt := rfl
theorem err : Statement .err := rfl
theorem ret : Statement .ret := rfl
theorem jp (nn : Word) : Statement (.jp nn) := rfl
theorem call (nn : Word) : Statement (.call nn) := rfl
theorem bit (b : BitVec 3) (r : Reg) : Statement (.bit b r) := rfl
theorem res (b : BitVec 3) (r : Reg) : Statement (.res b r) := rfl
theorem xchb (ra rb : Reg) : Statement (.xchb ra rb) := rfl
theorem jpCc (cc : Cond) (nn : Word) : Statement (.jpCc cc nn) := rfl
theorem callCc (cc : Cond) (nn : Word) : Statement (.callCc cc nn) := rfl
theorem retCc (cc : Cond) : Statement (.retCc cc) := rfl
theorem ldRN (rd : Reg) (n : Byte) : Statement (.ldRN rd n) := rfl
theorem ldWNN (wp : Pair) (nn : Word) : Statement (.ldWNN wp nn) := rfl
theorem ldRMem (rd : Reg) (wp : Pair) : Statement (.ldRMem rd wp) := rfl
theorem ldMemR (wp : Pair) (rs : Reg) : Statement (.ldMemR wp rs) := rfl
theorem inc (r : Reg) : Statement (.inc r) := rfl
theorem dec (r : Reg) : Statement (.dec r) := rfl
theorem ldRR (rd rs : Reg) : Statement (.ldRR rd rs) := rfl
theorem rl (r : Reg) : Statement (.rl r) := rfl
theorem rr (r : Reg) : Statement (.rr r) := rfl
theorem shl (r : Reg) : Statement (.shl r) := rfl
theorem shr (r : Reg) : Statement (.shr r) := rfl
theorem incw (wp : Pair) : Statement (.incw wp) := rfl
theorem decw (wp : Pair) : Statement (.decw wp) := rfl
theorem push (wp : Pair) : Statement (.push wp) := rfl
theorem pop (wp : Pair) : Statement (.pop wp) := rfl
theorem xts (wp : Pair) : Statement (.xts wp) := rfl
theorem bci : Statement .bci := rfl
theorem bcd : Statement .bcd := rfl
theorem bcir : Statement .bcir := rfl
theorem bcdr : Statement .bcdr := rfl
theorem addw (wd ws : Pair) : Statement (.addw wd ws) := rfl
theorem adcw (wd ws : Pair) : Statement (.adcw wd ws) := rfl
theorem sbcw (wd ws : Pair) : Statement (.sbcw wd ws) := rfl
theorem xchw (wa wb : Pair) : Statement (.xchw wa wb) := rfl
theorem bsinit : Statement .bsinit := rfl
theorem putbit (b : Bool) : Statement (.putbit b) := rfl
theorem putbits (n : BitVec 4) (v : Byte) : Statement (.putbits n v) := rfl
theorem putbyte (v : Byte) : Statement (.putbyte v) := rfl
theorem flush : Statement .flush := rfl

end Sys2Proof.Laws.EncodedSize
end

