-- ==== Sys2Proof/Machine/AsmText.lean ====
section
/-! DEFINITION. The assembler form of an instruction and of a source line, and the bytes a source assembles to
(rules R99, R115): no part of the machine (log 13). -/

namespace Sys2Proof.Machine

/-- A hexadecimal digit. -/
def hexDigit (n : Nat) : Char := "0123456789ABCDEF".toList.getD (n % 16) '0'

/-- A number as `0x` and `k` hexadecimal digits. -/
def hexText (k n : Nat) : String :=
  "0x" ++ String.ofList ((List.range k).map (fun i => hexDigit (n / 16 ^ (k - 1 - i))))

/-- `Rn`. -/
def regText (r : Reg) : String := "R" ++ toString r.num.toNat

/-- `Wn`. -/
def pairText (p : Pair) : String := "W" ++ toString p.num.toNat

/-- The condition names of rule R99. -/
def condText : Cond → String
  | .nz => "NZ"
  | .z => "Z"
  | .nc => "NC"
  | .c => "C"
  | .po => "PO"
  | .pe => "PE"
  | .p => "P"
  | .m => "M"

/-- A mnemonic and its operands, separated by commas. -/
def asmLine (op : String) : List String → String
  | [] => op
  | a :: as => op ++ " " ++ as.foldl (fun t x => t ++ "," ++ x) a

/-- The assembler form of rule R115: mnemonic in capitals, destination first. -/
def asmText : Instr → String
  | .nop => asmLine "NOP" []
  | .halt => asmLine "HALT" []
  | .err => asmLine "ERR" []
  | .ret => asmLine "RET" []
  | .jp nn => asmLine "JP" [hexText 4 nn.toNat]
  | .call nn => asmLine "CALL" [hexText 4 nn.toNat]
  | .bit b r => asmLine "BIT" [toString b.toNat, regText r]
  | .res b r => asmLine "RES" [toString b.toNat, regText r]
  | .xchb ra rb => asmLine "XCHB" [regText ra, regText rb]
  | .jpCc cc nn => asmLine "JP" [condText cc, hexText 4 nn.toNat]
  | .callCc cc nn => asmLine "CALL" [condText cc, hexText 4 nn.toNat]
  | .retCc cc => asmLine "RET" [condText cc]
  | .ldRN rd n => asmLine "LD" [regText rd, "#" ++ hexText 2 n.toNat]
  | .ldWNN wp nn => asmLine "LD" [pairText wp, "#" ++ hexText 4 nn.toNat]
  | .ldRMem rd wp => asmLine "LD" [regText rd, "(" ++ pairText wp ++ ")"]
  | .ldMemR wp rs => asmLine "LD" ["(" ++ pairText wp ++ ")", regText rs]
  | .inc r => asmLine "INC" [regText r]
  | .dec r => asmLine "DEC" [regText r]
  | .ldRR rd rs => asmLine "LD" [regText rd, regText rs]
  | .rl r => asmLine "RL" [regText r]
  | .rr r => asmLine "RR" [regText r]
  | .shl r => asmLine "SHL" [regText r]
  | .shr r => asmLine "SHR" [regText r]
  | .incw wp => asmLine "INCW" [pairText wp]
  | .decw wp => asmLine "DECW" [pairText wp]
  | .push wp => asmLine "PUSH" [pairText wp]
  | .pop wp => asmLine "POP" [pairText wp]
  | .xts wp => asmLine "XTS" [pairText wp]
  | .bci => asmLine "BCI" []
  | .bcd => asmLine "BCD" []
  | .bcir => asmLine "BCIR" []
  | .bcdr => asmLine "BCDR" []
  | .addw wd ws => asmLine "ADDW" [pairText wd, pairText ws]
  | .adcw wd ws => asmLine "ADCW" [pairText wd, pairText ws]
  | .sbcw wd ws => asmLine "SBCW" [pairText wd, pairText ws]
  | .xchw wa wb => asmLine "XCHW" [pairText wa, pairText wb]
  | .bsinit => asmLine "BSINIT" []
  | .putbit b => asmLine "PUTBIT" [toString b.toNat]
  | .putbits n v => asmLine "PUTBITS" [toString n.toNat, hexText 2 v.toNat]
  | .putbyte v => asmLine "PUTBYTE" [hexText 2 v.toNat]
  | .flush => asmLine "FLUSH" []

/-! ## Source lines -/

/-- The instructions whose operand may be a label (rule R115). -/
inductive JumpOp where
  | jp
  | jpCc (cc : Cond)
  | call
  | callCc (cc : Cond)
deriving DecidableEq, Repr

/-- The instruction with its label's address filled in. -/
def JumpOp.at : JumpOp → Word → Instr
  | .jp, nn => .jp nn
  | .jpCc cc, nn => .jpCc cc nn
  | .call, nn => .call nn
  | .callCc cc, nn => .callCc cc nn

/-- A line of an assembler source (rule R115). -/
inductive AsmLine where
  /-- An instruction; a BSE command puts no byte into the program store. -/
  | instr (i : Instr)
  /-- A jump or call to a label. -/
  | jump (op : JumpOp) (target : String)
  /-- `label:`, the address of the next byte. -/
  | label (name : String)
  /-- `.org x`. -/
  | org (a : Nat)
  /-- `.db x, ...`. -/
  | db (bs : List Byte)
  /-- `; text`. -/
  | comment (text : String)
deriving DecidableEq, Repr

/-- A line's text (rule R115). -/
def AsmLine.text : AsmLine → String
  | .instr i => asmText i
  | .jump .jp l => asmLine "JP" [l]
  | .jump (.jpCc cc) l => asmLine "JP" [condText cc, l]
  | .jump .call l => asmLine "CALL" [l]
  | .jump (.callCc cc) l => asmLine "CALL" [condText cc, l]
  | .label l => l ++ ":"
  | .org a => asmLine ".org" [hexText 4 a]
  | .db bs => asmLine ".db" (bs.map (fun b => hexText 2 b.toNat))
  | .comment s => "; " ++ s

/-- The program-store bytes of an instruction. -/
def programBytes (i : Instr) : List Byte :=
  match encode i with
  | .bytes bs => bs
  | .command _ => []

/-- The address after a line that starts at an address. -/
def AsmLine.next (a : Nat) : AsmLine → Nat
  | .instr i => a + (programBytes i).length
  | .jump _ _ => a + 3
  | .label _ => a
  | .org b => b
  | .db bs => a + bs.length
  | .comment _ => a

/-- The address of a label, the first line that defines it, in a source that starts at an address. -/
def labelAddr (l : String) : Nat → List AsmLine → Option Nat
  | _, [] => none
  | a, x :: xs => if x = .label l then some a else labelAddr l (x.next a) xs

/-- The bytes of a line, or none when its label is not defined in the source. -/
def AsmLine.bytes (source : List AsmLine) : AsmLine → Option (List Byte)
  | .instr i => some (programBytes i)
  | .jump op l => (labelAddr l 0 source).map (fun a => programBytes (op.at (BitVec.ofNat 16 a)))
  | .label _ => some []
  | .org _ => some []
  | .db bs => some bs
  | .comment _ => some []

/-- The bytes of the lines of a source from an address on, each with its address. -/
def assembleFrom (source : List AsmLine) : Nat → List AsmLine → Option (List Host.Cell)
  | _, [] => some []
  | a, x :: xs =>
    match x.bytes source, assembleFrom source (x.next a) xs with
    | some bs, some cs => some ((List.range' a bs.length).zip bs ++ cs)
    | _, _ => none

/-- The bytes that a source puts into the program store, from address 0 on (rule R115). -/
def assemble (source : List AsmLine) : Option (List Host.Cell) := assembleFrom source 0 source

end Sys2Proof.Machine
end

