-- ==== Sys2Proof/Tests/Slice0.lean ====
section
/-! SUPPORT. The model's own tests. Every expected value is taken from an example of spec/ (the rule or the
table of 95_test_vectors.md is named) or worked out by hand from the rule named. -/

namespace Sys2Proof.Machine.Tests

/-- The next state, where there is one. -/
def nextOf : Result → Option State
  | .next t => some t
  | .fault _ => none
  | .refused _ => none

/-- The block right after reset with bytes loaded at address 0, `PROG_SIZE` = `size` and the MCU running. -/
def boot (size : Nat) (bs : List Byte) : State :=
  { State.reset with
    params := { State.reset.params with progSize := size }
    prog := (List.range bs.length).zip bs
    mcu := { Mcu.reset with run := .running } }

/-- Pairs written before a test. -/
def withPairs (s : State) (w0 w1 w2 w3 : Word) : State :=
  (((s.writePair .w0 w0).writePair .w1 w1).writePair .w2 w2).writePair .w3 w3

/-- A running block with the four pairs and the flags `C Z S PV`. -/
def mk (w0 w1 w2 w3 : Word) (c z s pv : Bool) : State :=
  (withPairs (boot 65536 []) w0 w1 w2 w3).setFlags ⟨c, z, s, pv⟩

/-- The four pairs. -/
def pairs (s : State) : Word × Word × Word × Word :=
  (s.readPair .w0, s.readPair .w1, s.readPair .w2, s.readPair .w3)

/-- The MCU's fault code, `FPC` and `pc` after one step. -/
def faultAfter (s : State) : Option (Option McuFault × Word × Word) :=
  (nextOf (step s)).map (fun t => (t.mcu.fault, t.mcu.fpc, t.mcu.pc))

/-- The BSE of a reset block with `OUT_CAP` = `cap` after some commands: `ACC CNT SLOT WP OUT BFAULT`. -/
def bseAfter (cap : Nat) (is : List Instr) : Option Bse :=
  (nextOf (execAll is { State.reset with params := { State.reset.params with outCap := cap } })).map (fun t => t.bse)

/-- A reset block in which the host makes one transaction next. -/
def hostNext (s : State) (t : HostOp) : Option State := nextOf (step { s with inbox := [.host t] })

/-! ## Well-formedness -/

theorem test_wf_refuses_putbits_0 : (Instr.putbits 0#4 0xFF#8).wf = false := by decide
theorem test_wf_refuses_putbits_9 : (Instr.putbits 9#4 0xFF#8).wf = false := by decide
theorem test_wf_admits_putbits_8 : (Instr.putbits 8#4 0xFF#8).wf = true := by decide

/-! ## Decoding: one word for each constructor, written out from rules R91, R95, R101, R111 -/

-- R216
theorem test_words_nop :
    decodeMcu [0b00000000#8] = .instr .nop [] ∧ encode .nop = .bytes [0b00000000#8] := by decide
-- R217
theorem test_words_halt :
    decodeMcu [0b00000001#8] = .instr .halt [] ∧ encode .halt = .bytes [0b00000001#8] := by decide
-- R218
theorem test_words_err :
    decodeMcu [0b00000010#8] = .instr .err [] ∧ encode .err = .bytes [0b00000010#8] := by decide
-- R214
theorem test_words_ret :
    decodeMcu [0b00000011#8] = .instr .ret [] ∧ encode .ret = .bytes [0b00000011#8] := by decide
-- R210
theorem test_words_jp :
    decodeMcu [0b00000100#8, 0b00010000#8, 0b00000000#8] = .instr (.jp 0x0010#16) [] ∧ encode (.jp 0x0010#16) = .bytes [0b00000100#8, 0b00010000#8, 0b00000000#8] := by decide
-- R212
theorem test_words_call :
    decodeMcu [0b00000101#8, 0b01000000#8, 0b00000000#8] = .instr (.call 0x0040#16) [] ∧ encode (.call 0x0040#16) = .bytes [0b00000101#8, 0b01000000#8, 0b00000000#8] := by decide
-- R174
theorem test_words_bit :
    decodeMcu [0b00000110#8, 0b00111001#8] = .instr (.bit 7#3 .r1) [] ∧ encode (.bit 7#3 .r1) = .bytes [0b00000110#8, 0b00111001#8] := by decide
-- R175
theorem test_words_res :
    decodeMcu [0b00000110#8, 0b01111100#8] = .instr (.res 7#3 .r4) [] ∧ encode (.res 7#3 .r4) = .bytes [0b00000110#8, 0b01111100#8] := by decide
-- R204
theorem test_words_xchb :
    decodeMcu [0b00000111#8, 0b00000111#8] = .instr (.xchb .r0 .r7) [] ∧ encode (.xchb .r0 .r7) = .bytes [0b00000111#8, 0b00000111#8] := by decide
-- R211
theorem test_words_jpCc :
    decodeMcu [0b00001001#8, 0b00000000#8, 0b00100000#8] = .instr (.jpCc .z 0x2000#16) [] ∧ encode (.jpCc .z 0x2000#16) = .bytes [0b00001001#8, 0b00000000#8, 0b00100000#8] := by decide
-- R213
theorem test_words_callCc :
    decodeMcu [0b00010011#8, 0b00000000#8, 0b00000011#8] = .instr (.callCc .c 0x0300#16) [] ∧ encode (.callCc .c 0x0300#16) = .bytes [0b00010011#8, 0b00000000#8, 0b00000011#8] := by decide
-- R215
theorem test_words_retCc :
    decodeMcu [0b00011000#8] = .instr (.retCc .nz) [] ∧ encode (.retCc .nz) = .bytes [0b00011000#8] := by decide
-- R151
theorem test_words_ldRN :
    decodeMcu [0b00100110#8, 0b11111111#8] = .instr (.ldRN .r6 0xFF#8) [] ∧ encode (.ldRN .r6 0xFF#8) = .bytes [0b00100110#8, 0b11111111#8] := by decide
-- R152
theorem test_words_ldWNN :
    decodeMcu [0b00101010#8, 0b00110100#8, 0b00010010#8] = .instr (.ldWNN .w2 0x1234#16) [] ∧ encode (.ldWNN .w2 0x1234#16) = .bytes [0b00101010#8, 0b00110100#8, 0b00010010#8] := by decide
-- R153
theorem test_words_ldRMem :
    decodeMcu [0b00101100#8, 0b00010110#8] = .instr (.ldRMem .r6 .w2) [] ∧ encode (.ldRMem .r6 .w2) = .bytes [0b00101100#8, 0b00010110#8] := by decide
-- R154
theorem test_words_ldMemR :
    decodeMcu [0b00101101#8, 0b00001111#8] = .instr (.ldMemR .w1 .r7) [] ∧ encode (.ldMemR .w1 .r7) = .bytes [0b00101101#8, 0b00001111#8] := by decide
-- R160
theorem test_words_inc :
    decodeMcu [0b00110011#8] = .instr (.inc .r3) [] ∧ encode (.inc .r3) = .bytes [0b00110011#8] := by decide
-- R161
theorem test_words_dec :
    decodeMcu [0b00111011#8] = .instr (.dec .r3) [] ∧ encode (.dec .r3) = .bytes [0b00111011#8] := by decide
-- R150
theorem test_words_ldRR :
    decodeMcu [0b01010101#8] = .instr (.ldRR .r2 .r5) [] ∧ encode (.ldRR .r2 .r5) = .bytes [0b01010101#8] := by decide
-- R170
theorem test_words_rl :
    decodeMcu [0b10000001#8] = .instr (.rl .r1) [] ∧ encode (.rl .r1) = .bytes [0b10000001#8] := by decide
-- R171
theorem test_words_rr :
    decodeMcu [0b10001001#8] = .instr (.rr .r1) [] ∧ encode (.rr .r1) = .bytes [0b10001001#8] := by decide
-- R172
theorem test_words_shl :
    decodeMcu [0b10010001#8] = .instr (.shl .r1) [] ∧ encode (.shl .r1) = .bytes [0b10010001#8] := by decide
-- R173
theorem test_words_shr :
    decodeMcu [0b10011001#8] = .instr (.shr .r1) [] ∧ encode (.shr .r1) = .bytes [0b10011001#8] := by decide
-- R162
theorem test_words_incw :
    decodeMcu [0b10100010#8] = .instr (.incw .w2) [] ∧ encode (.incw .w2) = .bytes [0b10100010#8] := by decide
-- R163
theorem test_words_decw :
    decodeMcu [0b10100110#8] = .instr (.decw .w2) [] ∧ encode (.decw .w2) = .bytes [0b10100110#8] := by decide
-- R200
theorem test_words_push :
    decodeMcu [0b10101010#8] = .instr (.push .w2) [] ∧ encode (.push .w2) = .bytes [0b10101010#8] := by decide
-- R201
theorem test_words_pop :
    decodeMcu [0b10101101#8] = .instr (.pop .w1) [] ∧ encode (.pop .w1) = .bytes [0b10101101#8] := by decide
-- R202
theorem test_words_xts :
    decodeMcu [0b10110010#8] = .instr (.xts .w2) [] ∧ encode (.xts .w2) = .bytes [0b10110010#8] := by decide
-- R191
theorem test_words_bci :
    decodeMcu [0b10111000#8] = .instr .bci [] ∧ encode .bci = .bytes [0b10111000#8] := by decide
-- R192
theorem test_words_bcd :
    decodeMcu [0b10111001#8] = .instr .bcd [] ∧ encode .bcd = .bytes [0b10111001#8] := by decide
-- R193
theorem test_words_bcir :
    decodeMcu [0b10111010#8] = .instr .bcir [] ∧ encode .bcir = .bytes [0b10111010#8] := by decide
-- R194
theorem test_words_bcdr :
    decodeMcu [0b10111011#8] = .instr .bcdr [] ∧ encode .bcdr = .bytes [0b10111011#8] := by decide
-- R180
theorem test_words_addw :
    decodeMcu [0b11001000#8] = .instr (.addw .w2 .w0) [] ∧ encode (.addw .w2 .w0) = .bytes [0b11001000#8] := by decide
-- R181
theorem test_words_adcw :
    decodeMcu [0b11011010#8] = .instr (.adcw .w2 .w2) [] ∧ encode (.adcw .w2 .w2) = .bytes [0b11011010#8] := by decide
-- R182
theorem test_words_sbcw :
    decodeMcu [0b11101000#8] = .instr (.sbcw .w2 .w0) [] ∧ encode (.sbcw .w2 .w0) = .bytes [0b11101000#8] := by decide
-- R203
theorem test_words_xchw :
    decodeMcu [0b11110110#8] = .instr (.xchw .w1 .w2) [] ∧ encode (.xchw .w1 .w2) = .bytes [0b11110110#8] := by decide
-- R130
theorem test_words_bsinit :
    decodeBse 0b0001000000000000#16 = .instr .bsinit [] ∧ encode .bsinit = .command 0b0001000000000000#16 := by decide
-- R132
theorem test_words_putbit :
    decodeBse 0b0010000000000001#16 = .instr (.putbit true) [] ∧ encode (.putbit true) = .command 0b0010000000000001#16 := by decide
-- V1b
theorem test_words_putbits :
    decodeBse 0b0011001111111101#16 = .instr (.putbits 3#4 0xFD#8) [] ∧ encode (.putbits 3#4 0xFD#8) = .command 0b0011001111111101#16 := by decide
-- V1b
theorem test_words_putbyte :
    decodeBse 0b0100000010101011#16 = .instr (.putbyte 0xAB#8) [] ∧ encode (.putbyte 0xAB#8) = .command 0b0100000010101011#16 := by decide
-- R134
theorem test_words_flush :
    decodeBse 0b0101000000000000#16 = .instr .flush [] ∧ encode .flush = .command 0b0101000000000000#16 := by decide

-- R102: the ten illegal values of byte 0
theorem test_illegal_byte0 :
    ([0x2E#8, 0x2F#8, 0xB4#8, 0xB5#8, 0xB6#8, 0xB7#8, 0xBC#8, 0xBD#8, 0xBE#8, 0xBF#8].all
      (fun b => mcuLength b == none)) = true := by decide
-- R101: no other byte 0 is illegal
theorem test_legal_byte0_count :
    ((List.range 256).filter (fun n => mcuLength (BitVec.ofNat 8 n) == none)).length = 10 := by decide +kernel
-- R95
theorem test_illegal_sub_bitres : decodeMcu [0x06#8, 0x80#8] = .reject (.illegalSubByte 0x06#8 0x80#8) := by decide
theorem test_illegal_sub_xchb : decodeMcu [0x07#8, 0x40#8] = .reject (.illegalSubByte 0x07#8 0x40#8) := by decide
theorem test_illegal_sub_load : decodeMcu [0x2C#8, 0x20#8] = .reject (.illegalSubByte 0x2C#8 0x20#8) := by decide
theorem test_illegal_sub_store : decodeMcu [0x2D#8, 0xFF#8] = .reject (.illegalSubByte 0x2D#8 0xFF#8) := by decide
-- V1e
theorem test_illegal_commands :
    ([0x0000#16, 0x6000#16, 0xF123#16, 0x2002#16, 0x2100#16, 0x5001#16, 0x5100#16, 0x4155#16, 0x1001#16].all
      (fun w => decodeBse w == .reject (.illegalCommand w))) = true := by decide
-- R104
theorem test_table_word_jp : decodeTableWord 24 0x041234 = some (.jp 0x3412#16) := by decide
theorem test_table_word_putbit : decodeTableWord 16 0x2001 = some (.putbit true) := by decide
-- R115
theorem test_asm_ldRMem : asmText (.ldRMem .r6 .w2) = "LD R6,(W2)" := by decide
theorem test_asm_jpCc : asmText (.jpCc .z 0x2000#16) = "JP Z,0x2000" := by decide
-- P3: the end of the checksum program, with its labels
theorem test_assemble : assemble [.org 0x000A, .jump (.jpCc .c) "err", .instr (.incw .w2), .comment "next byte",
      .instr (.dec .r3), .org 0x0015, .instr .halt, .label "err", .instr .err, .db [0x10#8]]
    = some [(0x0A, 0x0B#8), (0x0B, 0x16#8), (0x0C, 0x00#8), (0x0D, 0xA2#8), (0x0E, 0x3B#8), (0x15, 0x01#8),
      (0x16, 0x02#8), (0x17, 0x10#8)] := by decide

/-! ## Load and move (V4) -/

theorem test_ldRR : (nextOf (exec (.ldRR .r3 .r5) (mk 0 0x0011 0x00A7 0 true true true true))).map
    (fun t => (t.readReg .r3, t.mcu.pc, t.mcu.flags)) = some (0xA7#8, 1#16, ⟨true, true, true, true⟩) := by decide
theorem test_ldRN : (nextOf (exec (.ldRN .r7 0xFF#8) (mk 0 0 0 0 false true false true))).map
    (fun t => (t.readPair .w3, t.mcu.pc)) = some (0x00FF#16, 2#16) := by decide
theorem test_ldWNN : (nextOf (exec (.ldWNN .w1 0x1234#16) (mk 0 0 0 0 false false false false))).map
    (fun t => (t.readReg .r2, t.readReg .r3, t.mcu.pc)) = some (0x12#8, 0x34#8, 3#16) := by decide
-- the address is taken before the write
theorem test_ldRMem_half : (nextOf (exec (.ldRMem .r4 .w2)
    ((mk 0 0 0x1234 0 false false false false).writeRam 0x1234#16 0x77#8))).map
    (fun t => t.readPair .w2) = some 0x7734#16 := by decide
theorem test_ldMemR_half : (nextOf (exec (.ldMemR .w1 .r3) (mk 0 0x80AB 0 0 false false false false))).map
    (fun t => (t.readRam 0x80AB#16, t.mcu.ram.length)) = some (0xAB#8, 1) := by decide

/-! ## Increment and decrement (V2) -/

theorem test_inc_7F : (nextOf (exec (.inc .r1) (mk 0x007F 0 0 0 true false false false))).map
    (fun t => (t.readReg .r1, t.mcu.flags)) = some (0x80#8, ⟨true, false, true, true⟩) := by decide
theorem test_inc_FF : (nextOf (exec (.inc .r1) (mk 0x00FF 0 0 0 true false false false))).map
    (fun t => (t.readReg .r1, t.mcu.flags)) = some (0x00#8, ⟨true, true, false, false⟩) := by decide
theorem test_dec_80 : (nextOf (exec (.dec .r1) (mk 0x0080 0 0 0 false false false false))).map
    (fun t => (t.readReg .r1, t.mcu.flags)) = some (0x7F#8, ⟨false, false, false, true⟩) := by decide
theorem test_dec_00 : (nextOf (exec (.dec .r1) (mk 0 0 0 0 false true false true))).map
    (fun t => (t.readReg .r1, t.mcu.flags)) = some (0xFF#8, ⟨false, false, true, false⟩) := by decide
-- S2: the source's vector
theorem test_incw_FFFF : (nextOf (exec (.incw .w0) (mk 0xFFFF 0 0 0 false false false false))).map
    (fun t => (t.readPair .w0, t.mcu.flags, t.mcu.pc)) = some (0#16, ⟨false, true, false, false⟩, 1#16) := by decide
theorem test_incw_00FF : (nextOf (exec (.incw .w2) (mk 0 0 0x00FF 0 true true true true))).map
    (fun t => (t.readReg .r4, t.readReg .r5, t.mcu.flags)) = some (1#8, 0#8, ⟨true, false, false, false⟩) := by decide
theorem test_decw_8000 : (nextOf (exec (.decw .w2) (mk 0 0 0x8000 0 false false false false))).map
    (fun t => (t.readPair .w2, t.mcu.flags)) = some (0x7FFF#16, ⟨false, false, false, true⟩) := by decide

/-! ## Rotates, shifts, bits (V3) -/

theorem test_rl_B4 : (nextOf (exec (.rl .r5) (mk 0 0 0x00B4 0 true false false false))).map
    (fun t => (t.readReg .r5, t.mcu.flags)) = some (0x69#8, ⟨true, false, false, true⟩) := by decide
theorem test_rl_80 : (nextOf (exec (.rl .r5) (mk 0 0 0x0080 0 false false false false))).map
    (fun t => (t.readReg .r5, t.mcu.flags)) = some (0x00#8, ⟨true, true, false, true⟩) := by decide
theorem test_rr_B4 : (nextOf (exec (.rr .r5) (mk 0 0 0x00B4 0 true false false false))).map
    (fun t => (t.readReg .r5, t.mcu.flags)) = some (0xDA#8, ⟨false, false, true, false⟩) := by decide
theorem test_rr_01 : (nextOf (exec (.rr .r5) (mk 0 0 0x0001 0 false false false false))).map
    (fun t => (t.readReg .r5, t.mcu.flags)) = some (0x00#8, ⟨true, true, false, true⟩) := by decide
theorem test_shl_B4 : (nextOf (exec (.shl .r5) (mk 0 0 0x00B4 0 true false false false))).map
    (fun t => (t.readReg .r5, t.mcu.flags)) = some (0x68#8, ⟨true, false, false, false⟩) := by decide
theorem test_shr_B4 : (nextOf (exec (.shr .r5) (mk 0 0 0x00B4 0 true false false false))).map
    (fun t => (t.readReg .r5, t.mcu.flags)) = some (0x5A#8, ⟨false, false, false, true⟩) := by decide
theorem test_bit_7 : (nextOf (exec (.bit 7#3 .r6) (mk 0 0 0 0x7F00 false false false false))).map
    (fun t => (t.mcu.flags, t.mcu.pc)) = some (⟨false, true, false, false⟩, 2#16) := by decide
theorem test_bit_3 : (nextOf (exec (.bit 3#3 .r0) (mk 0x0800 0 0 0 false true true false))).map
    (fun t => t.mcu.flags) = some ⟨false, false, true, false⟩ := by decide
theorem test_res_7 : (nextOf (exec (.res 7#3 .r6) (mk 0 0 0 0x8000 false false false false))).map
    (fun t => (t.readReg .r6, t.mcu.flags)) = some (0#8, ⟨false, false, false, false⟩) := by decide
theorem test_res_0 : (nextOf (exec (.res 0#3 .r1) (mk 0x00FF 0 0 0 true true true true))).map
    (fun t => (t.readReg .r1, t.mcu.flags)) = some (0xFE#8, ⟨true, true, true, true⟩) := by decide

/-! ## Pair arithmetic (V5) -/

theorem test_addw_7FFF : (nextOf (exec (.addw .w1 .w3) (mk 0 0x7FFF 0 1 false false false false))).map
    (fun t => (t.readPair .w1, t.mcu.flags)) = some (0x8000#16, ⟨false, false, true, true⟩) := by decide
theorem test_addw_carry_not_read : (nextOf (exec (.addw .w1 .w3) (mk 0 0x1234 0 0x0FFF true false false false))).map
    (fun t => (t.readPair .w1, t.mcu.flags)) = some (0x2233#16, ⟨false, false, false, false⟩) := by decide
theorem test_adcw_8001 : (nextOf (exec (.adcw .w0 .w0) (mk 0x8001 0 0 0 true false false false))).map
    (fun t => (t.readPair .w0, t.mcu.flags)) = some (0x0003#16, ⟨true, false, false, true⟩) := by decide
theorem test_adcw_8000 : (nextOf (exec (.adcw .w1 .w3) (mk 0 0x8000 0 0x7FFF true false false false))).map
    (fun t => (t.readPair .w1, t.mcu.flags)) = some (0#16, ⟨true, true, false, false⟩) := by decide
theorem test_sbcw_FFFF : (nextOf (exec (.sbcw .w1 .w3) (mk 0 0 0 0xFFFF true false false false))).map
    (fun t => (t.readPair .w1, t.mcu.flags)) = some (0#16, ⟨true, true, false, false⟩) := by decide
theorem test_sbcw_7FFF : (nextOf (exec (.sbcw .w1 .w3) (mk 0 0x8000 0 0x7FFF true false false false))).map
    (fun t => (t.readPair .w1, t.mcu.flags)) = some (0#16, ⟨false, true, false, true⟩) := by decide

/-! ## Block copies (V6) -/

theorem test_bci_wraps : (nextOf (exec .bci
    ((mk 0 0xFFFF 0xFFFF 0 true true true true).writeRam 0xFFFF#16 0x5A#8))).map
    (fun t => (pairs t, t.readRam 0xFFFF#16, t.mcu.flags))
    = some ((0xFFFF#16, 0#16, 0#16, 0#16), 0x5A#8, ⟨true, true, true, true⟩) := by decide
theorem test_bcd : (nextOf (exec .bcd
    ((mk 1 0x2000 0x1000 0 true true true true).writeRam 0x1000#16 0xAA#8))).map
    (fun t => (pairs t, t.readRam 0x2000#16, t.mcu.pc))
    = some ((0#16, 0x1FFF#16, 0x0FFF#16, 0#16), 0xAA#8, 1#16) := by decide
theorem test_bcir_replicates : (nextOf (exec .bcir
    (((mk 6 0x3002 0x3000 0 true true true true).writeRam 0x3000#16 0x41#8).writeRam 0x3001#16 0x42#8))).map
    (fun t => (pairs t, t.mcu.ram, t.mcu.pc))
    = some ((0#16, 0x3008#16, 0x3006#16, 0#16),
      [(0x3000, 0x41#8), (0x3001, 0x42#8), (0x3002, 0x41#8), (0x3003, 0x42#8), (0x3004, 0x41#8), (0x3005, 0x42#8),
        (0x3006, 0x41#8), (0x3007, 0x42#8)], 1#16) := by decide
theorem test_bcdr_moves_up : (nextOf (exec .bcdr
    ((((mk 3 0x3004 0x3003 0 true true true true).writeRam 0x3001#16 1#8).writeRam 0x3002#16 2#8).writeRam 0x3003#16
      3#8))).map
    (fun t => (pairs t, t.mcu.ram))
    = some ((0#16, 0x3001#16, 0x3000#16, 0#16), [(0x3001, 1#8), (0x3002, 1#8), (0x3003, 2#8), (0x3004, 3#8)]) := by
  decide

/-! ## Stack and exchange (V7) -/

theorem test_push : (nextOf (exec (.push .w2) (mk 0 0 0xBEEF 0 true true true true))).map
    (fun t => (t.mcu.stk, t.readPair .w2, t.mcu.pc)) = some ([0xBEEF#16], 0xBEEF#16, 1#16) := by decide
theorem test_push_full : (nextOf (exec (.push .w0)
    { (mk 0 0 0 0 false false false false).setStk [1#16, 2#16] with params := ⟨65536, 2, 1⟩ })).map
    (fun t => (t.mcu.fault, t.mcu.run, t.sd, t.mcu.pc)) = some (some .stackOverflow, .faulted, 2, 0#16) := by decide
theorem test_pop : (nextOf (exec (.pop .w1)
    ((mk 0 0x2222 0 0 false false false false).setStk [0xCAFE#16, 0x1111#16]))).map
    (fun t => (t.mcu.stk, t.readReg .r2, t.readReg .r3)) = some ([0x1111#16], 0xCA#8, 0xFE#8) := by decide
theorem test_pop_empty : (nextOf (exec (.pop .w1) (mk 0 0x2222 0 0 false false false false))).map
    (fun t => (t.mcu.fault, t.readPair .w1)) = some (some .stackUnderflow, 0x2222#16) := by decide
theorem test_xts : (nextOf (exec (.xts .w3)
    ((mk 0 0 0 0x0123 false false false false).setStk [0xCAFE#16, 0x1111#16]))).map
    (fun t => (t.mcu.stk, t.readPair .w3)) = some ([0x0123#16, 0x1111#16], 0xCAFE#16) := by decide
theorem test_xts_empty : (nextOf (exec (.xts .w0) (mk 0 0 0 0 false false false false))).map
    (fun t => t.mcu.fault) = some (some .stackUnderflow) := by decide
theorem test_xchw : (nextOf (exec (.xchw .w0 .w3) (mk 0xAAAA 0 0 0x5555 true false true false))).map
    pairs = some (0x5555#16, 0#16, 0#16, 0xAAAA#16) := by decide
theorem test_xchb : (nextOf (exec (.xchb .r4 .r5) (mk 0 0 0x1234 0 false false false false))).map
    (fun t => (t.readPair .w2, t.mcu.pc)) = some (0x3412#16, 2#16) := by decide

/-! ## Control (V8) -/

theorem test_jp : (nextOf (exec (.jp 0x1234#16) (boot 65536 []))).map (fun t => t.mcu.pc) = some 0x1234#16 := by decide
theorem test_jpCc_taken : (nextOf (exec (.jpCc .pe 0xABCD#16) (mk 0 0 0 0 true true true true))).map
    (fun t => t.mcu.pc) = some 0xABCD#16 := by decide
theorem test_jpCc_not_taken : (nextOf (exec (.jpCc .p 0xABCD#16) (mk 0 0 0 0 true true true true))).map
    (fun t => t.mcu.pc) = some 3#16 := by decide
theorem test_call_wraps : (nextOf (exec (.call 0x2010#16) ((boot 65536 []).setPc 0xFFFE#16))).map
    (fun t => (t.mcu.pc, t.mcu.stk)) = some (0x2010#16, [1#16]) := by decide
theorem test_callCc_untaken_full : (nextOf (exec (.callCc .c 0x8000#16)
    { (mk 0 0 0 0 false false false false).setStk [1#16, 2#16] with params := ⟨65536, 2, 1⟩ })).map
    (fun t => (t.mcu.pc, t.mcu.fault)) = some (3#16, none) := by decide
theorem test_callCc_taken_full : (nextOf (exec (.callCc .nc 0x8000#16)
    { (mk 0 0 0 0 false false false false).setStk [1#16, 2#16] with params := ⟨65536, 2, 1⟩ })).map
    (fun t => (t.mcu.pc, t.mcu.fault)) = some (0#16, some .stackOverflow) := by decide
theorem test_ret : (nextOf (exec .ret ((boot 65536 []).setStk [0x4321#16, 3#16]))).map
    (fun t => (t.mcu.pc, t.mcu.stk)) = some (0x4321#16, [3#16]) := by decide
theorem test_retCc_untaken_empty : (nextOf (exec (.retCc .p) (mk 0 0 0 0 false false true false))).map
    (fun t => (t.mcu.pc, t.mcu.fault)) = some (1#16, none) := by decide
theorem test_nop_wraps : (nextOf (exec .nop ((boot 65536 []).setPc 0xFFFF#16))).map (fun t => t.mcu.pc)
    = some 0#16 := by decide
theorem test_halt : (nextOf (exec .halt (boot 65536 []))).map (fun t => (t.mcu.run, t.mcu.pc, t.mcu.fault))
    = some (.halted, 0#16, none) := by decide
theorem test_err : (nextOf (exec .err ((boot 65536 []).setPc 0x33#16))).map
    (fun t => (t.mcu.run, t.mcu.fault, t.mcu.fpc, t.mcu.pc))
    = some (.faulted, some .softwareError, 0x33#16, 0x33#16) := by decide

/-! ## Faults of the fetch and their order (V9, R233) -/

theorem test_fault_unassigned : faultAfter (boot 1 [0xB4#8]) = some (some .illegalInstruction, 0#16, 0#16) := by decide
theorem test_fault_sub_byte : faultAfter (boot 2 [0x2D#8, 0xFF#8]) = some (some .illegalInstruction, 0#16, 0#16) := by
  decide
theorem test_fault_end : faultAfter ((boot 2 [0#8, 0#8]).setPc 2#16) = some (some .fetchOutOfRange, 2#16, 2#16) := by
  decide
theorem test_fault_byte1_missing : faultAfter ((boot 2 [0x00#8, 0x06#8]).setPc 1#16)
    = some (some .fetchOutOfRange, 1#16, 1#16) := by decide
theorem test_fault_untaken_call : faultAfter (boot 2 [0x13#8, 0x00#8]) = some (some .fetchOutOfRange, 0#16, 0#16) := by
  decide
-- V8: fetch addresses wrap modulo 2^16
theorem test_fetch_wraps : (nextOf (step
    { boot 65536 [0x34#8, 0x12#8] with
      prog := [(0, 0x34#8), (1, 0x12#8), (65535, 0x29#8)], mcu := { Mcu.reset with run := .running, pc := 0xFFFF#16 } })).map
    (fun t => (t.readPair .w1, t.mcu.pc)) = some (0x1234#16, 2#16) := by decide
-- log 4: a byte that nothing loaded stops the model
theorem test_unloaded : nextOf (step (boot 2 [])) = none := by decide

/-! ## The BSE (V1) -/

theorem test_putbit_first : bseAfter 65536 [.putbit true] = some ⟨0x80#8, 1#3, 0, 1, [], none⟩ := by decide
theorem test_putbit_full : bseAfter 1 [.putbits 7#4 0x7F#8, .putbit true, .putbit true]
    = some ⟨0#8, 0#3, 0, 1, [(0, 0xFF#8)], some .outputFull⟩ := by decide
-- V1c
theorem test_putbits_straddles : bseAfter 65536 [.putbits 3#4 5#8, .putbyte 0xAB#8, .putbits 8#4 0xFF#8]
    = some ⟨0xE0#8, 3#3, 2, 3, [(0, 0xBF#8), (1, 0xAB#8)], none⟩ := by decide
-- V1d: all or nothing
theorem test_putbits_all_or_nothing : bseAfter 1 [.putbits 7#4 0x7F#8, .putbits 2#4 3#8]
    = some ⟨0xFE#8, 7#3, 0, 1, [], some .outputFull⟩ := by decide
theorem test_putbyte_full : bseAfter 1 [.putbyte 0xAA#8, .putbyte 0xBB#8]
    = some ⟨0#8, 0#3, 0, 1, [(0, 0xAA#8)], some .outputFull⟩ := by decide
theorem test_flush : bseAfter 65536 [.putbits 3#4 5#8, .flush] = some ⟨0#8, 0#3, 0, 1, [(0, 0xA0#8)], none⟩ := by decide
theorem test_flush_empty : bseAfter 65536 [.flush] = some ⟨0#8, 0#3, 0, 0, [], none⟩ := by decide
theorem test_bsinit_clears : bseAfter 1 [.putbyte 0xAA#8, .putbyte 0xBB#8, .bsinit]
    = some ⟨0#8, 0#3, 0, 0, [(0, 0xAA#8)], none⟩ := by decide
-- S1: the source's known vector
theorem test_known_vector : (bseAfter 65536 ([.putbits 3#4 0#8, .putbyte 0x33#8] ++ pseudoLiteral 0x35#8
      ++ pseudoLiteral 0x34#8 ++ pseudoLiteral 0x35#8 ++ pseudoLiteral 0x36#8 ++ [.putbit true]))
    = some ⟨0#8, 0#3, 0, 6, [(0, 0x01#8), (1, 0x33#8), (2, 0x35#8), (3, 0x34#8), (4, 0x35#8), (5, 0x36#8)], none⟩ := by decide
-- S1c
theorem test_putend : bseAfter 65536 ([.putbits 6#4 0#8] ++ pseudoPutend)
    = some ⟨0#8, 0#3, 4, 5, [(0, 0x03#8), (1, 0xFF#8), (2, 0xFF#8), (3, 0xFF#8), (4, 0xFF#8)], none⟩ := by decide
-- V1g
theorem test_putgamma_300 : (bseAfter 65536 (pseudoPutgamma 300 ++ [.flush])).map Bse.out
    = some [(0, 0xAE#8), (1, 0xFA#8), (2, 0x00#8)] := by decide
-- V1e, R240: the sticky fault
theorem test_bad_command : (hostNext State.reset (.bseCmd 0x2002#16)).map (fun t => t.bse.bfault)
    = some (some .badCommand) := by decide
theorem test_bad_bsinit_overwrites :
    (hostNext (State.reset.raiseBse .outputFull) (.bseCmd 0x1001#16)).map (fun t => t.bse.bfault)
    = some (some .badCommand) := by decide
theorem test_bad_command_ignored :
    (hostNext (State.reset.raiseBse .outputFull) (.bseCmd 0x0000#16)).map (fun t => t.bse.bfault)
    = some (some .outputFull) := by decide

/-! ## The host (V10, R263) -/

theorem test_host_start : (hostNext State.reset .start).map (fun t => (t.mcu.run, t.reply))
    = some (.running, .nothing) := by decide
theorem test_host_write_refused : (hostNext (State.reset.setRun .halted) (.writeRam 0#16 0xFF#8)).map
    (fun t => (t.readRam 0#16, t.reply)) = some (0#8, .refused) := by decide
theorem test_host_loadprog_range : (hostNext (boot 2 []) (.loadProg 2 1#8)).map (fun t => t.reply)
    = some .refused := by decide
theorem test_host_flags : (hostNext State.reset (.writeReg 5 0xFA#16)).map
    (fun t => (t.mcu.flags, t.mcu.flags.pack)) = some (⟨false, true, false, true⟩, 0x0A#8) := by decide
theorem test_host_readreg : (hostNext ((mk 0 0 0 0xFFF0 false false false false).setRun .halted) (.readReg 15)).map
    (fun t => t.reply) = some (.value 0xF0) := by decide
theorem test_host_readstk : (hostNext ((State.reset.setStk [7#16, 9#16])) (.readStk 0)).map (fun t => t.reply)
    = some (.value 9) := by decide
theorem test_host_bseout_refused : (hostNext State.reset (.bseOut 0)).map (fun t => t.reply) = some .refused := by decide
-- 93 U2: whatever the free value is, the read answers it
theorem test_host_bseout_pending (s : State) (h : nextOf (exec (.putbit true) State.reset) = some s) :
    (hostNext s (.bseOut 0)).map (fun t => t.reply) = some (.value (Config.unspecifiedOut 0).toNat) := by
  have : s = State.reset.setBse (State.reset.bse.putBit true) := (Option.some.inj h).symm
  subst this
  rfl

/-! ## The interface -/

theorem test_fetch_word_mcu : (nextOf (step (State.reset.withFetchWord 24 0x2A3412))).map
    (fun t => (t.readPair .w2, t.mcu.pc)) = some (0x1234#16, 3#16) := by decide
theorem test_fetch_word_bse : (nextOf (step (State.reset.withFetchWord 16 0x38AB))).map (fun t => t.bse)
    = some ⟨0#8, 0#3, 0, 1, [(0, 0xAB#8)], none⟩ := by decide
theorem test_reset_does_not_step : nextOf (step State.reset) = some State.reset := by decide
-- P4
theorem test_run_unbounded_recursion :
    (match runMcu 5 { boot 3 [0x05#8, 0#8, 0#8] with params := ⟨3, 4, 1⟩ } with
      | .final t => some (t.mcu.fault, t.mcu.stk)
      | _ => none) = some (some .stackOverflow, [3#16, 3#16, 3#16, 3#16]) := by decide

/-! ## Witnesses: for every statement with hypotheses, a state and operands that meet them, clause by clause -/

/-- A running block with `STACK_DEPTH` = 2 and a given stack, top first. -/
def stacked (l : List Word) : State :=
  { (mk 1 2 3 4 true true true true).setStk l with params := ⟨65536, 2, 1⟩ }

/-- A block with `OUT_CAP` = 1 and a given encoder. -/
def encoding (e : Bse) : State := { State.reset with params := ⟨65536, 2, 1⟩, bse := e }

/-- A block in which the host's next transaction is given. -/
def asked (s : State) (t : HostOp) : State := { s with inbox := [.host t] }

-- a count of 3, and the count 0 that copies 65536 bytes
theorem witness_BlockRepeatIsSteps :
    3 = (if (mk 3 0 0 0 true true true true).readPair .w0 = 0#16 then 65536
      else ((mk 3 0 0 0 true true true true).readPair .w0).toNat)
    ∧ 65536 = (if (mk 0 0 0 0 true true true true).readPair .w0 = 0#16 then 65536
      else ((mk 0 0 0 0 true true true true).readPair .w0).toNat) := by decide
theorem witness_BlockRepeatEnds :
    65535 = (if (mk 0xFFFF 1 2 0 true true true true).readPair .w0 = 0#16 then 65536
      else ((mk 0xFFFF 1 2 0 true true true true).readPair .w0).toNat) := by decide
-- the copy ends at the last byte of RAM, the addresses 1 apart
theorem witness_BlockCopyUpReplicates :
    let s := mk 5 0xFFFB 0xFFFA 0 true true true true
    5 = (s.readPair .w0).toNat ∧ 0 < 5 ∧ 0 < 1 ∧ (s.readPair .w1).toNat = (s.readPair .w2).toNat + 1
      ∧ (s.readPair .w1).toNat + 5 ≤ 65536 := by decide
-- the source block starts at address 0
theorem witness_BlockCopyDownMoves :
    let s := mk 4 5 3 0 true true true true
    4 = (s.readPair .w0).toNat ∧ 0 < 4 ∧ (s.readPair .w2).toNat ≤ (s.readPair .w1).toNat
      ∧ 4 ≤ (s.readPair .w2).toNat + 1 := by decide
theorem witness_PushAddsAnEntry :
    (stacked [7#16, 8#16]).sd = (stacked [7#16, 8#16]).params.stackDepth
    ∧ (stacked [7#16]).sd ≠ (stacked [7#16]).params.stackDepth := by decide
theorem witness_PopTakesTheTop : (stacked []).sd = 0 ∧ (stacked [7#16]).sd ≠ 0 := by decide
theorem witness_ExchangeWithTop : (stacked []).sd = 0 ∧ (stacked [7#16]).sd ≠ 0 := by decide
theorem witness_StackRoundTrips :
    (stacked []).sd ≠ (stacked []).params.stackDepth ∧ (stacked [7#16]).sd ≠ 0 := by decide
theorem witness_Calls :
    (stacked [7#16, 8#16]).sd = (stacked [7#16, 8#16]).params.stackDepth
    ∧ (stacked [7#16]).sd ≠ (stacked [7#16]).params.stackDepth
    ∧ condHolds .c (stacked [7#16, 8#16]).mcu.flags = true ∧ condHolds .c (stacked [7#16]).mcu.flags = true
    ∧ condHolds .nc (stacked [7#16, 8#16]).mcu.flags = false := by decide
theorem witness_Returns :
    (stacked []).sd = 0 ∧ (stacked [7#16]).sd ≠ 0 ∧ condHolds .m (stacked []).mcu.flags = true
    ∧ condHolds .m (stacked [7#16]).mcu.flags = true ∧ condHolds .p (stacked []).mcu.flags = false := by decide
-- one instruction that each of the four masks keeps
theorem witness_FlagsWrittenByTable :
    exec .nop (stacked []) = .next ((stacked []).advance 1) ∧ (flagMask .nop).c = false
    ∧ (flagMask .nop).z = false ∧ (flagMask .nop).s = false ∧ (flagMask .nop).pv = false :=
  ⟨rfl, by decide⟩
-- an instruction that goes on, a HALT, an instruction that faults
theorem witness_PcAdvancesByLength :
    (stacked []).mcu.fault = none
    ∧ (Instr.nop.isMcu = true ∧ exec .nop (stacked []) = .next ((stacked []).advance 1)
      ∧ ((stacked []).advance 1).mcu.fault = none ∧ Instr.nop ≠ .halt ∧ transferTaken (stacked []).mcu.flags .nop = false)
    ∧ (Instr.halt.isMcu = true ∧ exec .halt (stacked []) = .next ((stacked []).setRun .halted))
    ∧ (Instr.err.isMcu = true ∧ exec .err (stacked []) = .next ((stacked []).raise .softwareError)
      ∧ ((stacked []).raise .softwareError).mcu.fault ≠ none) :=
  ⟨rfl, ⟨rfl, rfl, rfl, by decide, rfl⟩, ⟨rfl, rfl⟩, rfl, rfl, by decide⟩
theorem witness_UnitsShareNoState :
    (exec .nop (stacked []) = .next ((stacked []).advance 1) ∧ Instr.nop.isMcu = true)
    ∧ exec .bsinit (stacked []) = .next ((stacked []).setBse (stacked []).bse.init) ∧ Instr.bsinit.isBse = true :=
  ⟨⟨rfl, rfl⟩, rfl, rfl⟩
-- the five cases: no transition, reset, start, halt, fault
theorem witness_RunStateTransitions :
    step State.reset = .next State.reset
    ∧ (nextOf (step (asked (State.reset.setRun .halted) .reset))).map (fun t => t.mcu.run) = some .stopped
    ∧ (nextOf (step (asked State.reset .start))).map (fun t => t.mcu.run) = some .running
    ∧ (nextOf (step (boot 1 [0x01#8]))).map (fun t => t.mcu.run) = some .halted
    ∧ (nextOf (step (boot 1 [0x02#8]))).map (fun t => t.mcu.run) = some .faulted :=
  ⟨rfl, by decide, by decide, by decide, by decide⟩
theorem witness_ProgramStoreWrittenByHostOnly :
    step State.reset = .next State.reset
    ∧ (nextOf (step (asked State.reset (.loadProg 65535 7#8)))).map (fun t => t.prog) = some [(65535, 7#8)] :=
  ⟨rfl, by decide⟩
theorem witness_McuFaultsArePrecise :
    (boot 1 [0x02#8]).mcu.run = .running
    ∧ mcuMove (boot 1 [0x02#8]) = .next ((boot 1 [0x02#8]).raise .softwareError)
    ∧ ((boot 1 [0x02#8]).raise .softwareError).mcu.run = .faulted :=
  ⟨rfl, rfl, rfl⟩
theorem witness_OnlyRunningSteps :
    State.reset.mcu.run ≠ .running ∧ (State.reset.setRun .halted).mcu.run ≠ .running
    ∧ (State.reset.setRun .faulted).mcu.run ≠ .running ∧ State.reset.inbox = []
    ∧ ({ State.reset with inbox := [.mcu] } : State).inbox = .mcu :: [] := by decide
-- pc at PROG_SIZE; each kind of illegal byte; byte 1 and byte 2 beyond the end
theorem witness_FetchChecksInOrder :
    (let s := (boot 2 [0#8, 0#8]).setPc 2#16;
      s.mcu.run = .running ∧ s.params.progSize ≤ s.mcu.pc.toNat)
    ∧ (let s := boot 1 [0xB4#8];
      s.mcu.pc.toNat < s.params.progSize ∧ Memory.find s.mcu.pc.toNat s.prog = some 0xB4#8
        ∧ 0xB4#8 ∈ illegalByte0s)
    ∧ (let s := boot 1 [0x06#8];
      s.mcu.pc.toNat < s.params.progSize ∧ Memory.find s.mcu.pc.toNat s.prog = some 0x06#8
        ∧ mcuLength 0x06#8 = some 2 ∧ 2 ≤ 2 ∧ s.params.progSize ≤ (s.mcu.pc + 1#16).toNat)
    ∧ (let s := boot 2 [0x04#8, 0x00#8];
      s.mcu.pc.toNat < s.params.progSize ∧ Memory.find s.mcu.pc.toNat s.prog = some 0x04#8
        ∧ (s.mcu.pc + 1#16).toNat < s.params.progSize ∧ Memory.find (s.mcu.pc + 1#16).toNat s.prog = some 0x00#8
        ∧ mcuLength 0x04#8 = some 3 ∧ s.params.progSize ≤ (s.mcu.pc + 2#16).toNat)
    ∧ (let s := boot 2 [0x06#8, 0x80#8];
      s.mcu.pc.toNat < s.params.progSize ∧ Memory.find s.mcu.pc.toNat s.prog = some 0x06#8
        ∧ (s.mcu.pc + 1#16).toNat < s.params.progSize ∧ Memory.find (s.mcu.pc + 1#16).toNat s.prog = some 0x80#8)
    ∧ illegalSub 0x06#8 0x80#8 ∧ illegalSub 0x07#8 0x40#8 ∧ illegalSub 0x2C#8 0x20#8 ∧ illegalSub 0x2D#8 0x20#8 := by
  decide

theorem witness_UnloadedByteStops :
    (boot 2 []).mcu.run = .running ∧ (boot 2 []).mcu.pc.toNat < (boot 2 []).params.progSize
    ∧ Memory.find (boot 2 []).mcu.pc.toNat (boot 2 []).prog = none := by decide

/-- Every address of a store filled with one byte is listed. -/
theorem find_filled (v : Byte) (n k : Nat) (h : k < n) (b : Nat) :
    Memory.find (b + k) ((List.range' b n).map (fun a => (a, v))) = some v := by
  induction n generalizing k b with
  | zero => omega
  | succ n ih =>
    rw [List.range'_succ, List.map_cons, Memory.find]
    by_cases hk : k = 0
    · rw [hk, if_pos (Nat.add_zero b).symm]
    · rw [if_neg (by omega), show b + k = b + 1 + (k - 1) by omega]
      exact ih (k - 1) (by omega) (b + 1)

/-- A running block whose program store is full of `NOP`s. -/
def fullOfNops : State := { boot 65536 [] with prog := (List.range' 0 65536).map (fun a => (a, 0x00#8)) }

theorem witness_FullProgramFaults :
    fullOfNops.mcu.run = .running ∧ fullOfNops.mcu.fault = none ∧ fullOfNops.params.progSize = 65536
    ∧ (∀ a : Word, Memory.find a.toNat fullOfNops.prog = some 0x00#8)
    ∧ ∃ i rest, decodeMcu [0x00#8, 0x00#8, 0x00#8] = .instr i rest := by
  refine ⟨rfl, rfl, rfl, fun a => ?_, .nop, [0x00#8, 0x00#8], rfl⟩
  have h := find_filled 0x00#8 65536 a.toNat a.isLt 0
  rw [Nat.zero_add] at h
  exact h

theorem witness_DecodeEncode : (Instr.putbits 1#4 0xFF#8).wf = true ∧ (Instr.putbits 8#4 0#8).wf = true := by decide
theorem witness_EncodeDecode :
    decodeMcu [0x00#8, 0xFF#8] = .instr .nop [0xFF#8] ∧ decodeBse 0x1000#16 = .instr .bsinit [] := by decide
-- three bytes at the top of the program store, the address wrapping modulo 2^16; both inbox clauses
theorem witness_StepRunsInstruction :
    let bs := [0x29#8, 0x34#8, 0x12#8]
    let s : State := { boot 65536 [] with
      prog := [(0, 0x34#8), (1, 0x12#8), (65535, 0x29#8)], mcu := { Mcu.reset with run := .running, pc := 0xFFFF#16 } }
    s.mcu.run = .running ∧ decodeMcu bs = .instr (.ldWNN .w1 0x1234#16) []
    ∧ (∀ k, (h : k < bs.length) → (s.mcu.pc + BitVec.ofNat 16 k).toNat < s.params.progSize
      ∧ Memory.find (s.mcu.pc + BitVec.ofNat 16 k).toNat s.prog = some bs[k])
    ∧ s.inbox = [] ∧ ({ s with inbox := [.mcu] } : State).inbox = .mcu :: [] := by
  refine ⟨rfl, by decide, ?_, rfl, rfl⟩
  intro k h
  match k, h with
  | 0, _ => exact ⟨by decide, rfl⟩
  | 1, _ => exact ⟨by decide, rfl⟩
  | 2, _ => exact ⟨by decide, rfl⟩
theorem witness_StepRunsCommand :
    (asked State.reset (.bseCmd 0x5000#16)).inbox = .host (.bseCmd 0x5000#16) :: []
    ∧ decodeBse 0x5000#16 = .instr .flush [] := by decide
theorem witness_StepKeepsInvariant : BlockInv State.reset ∧ step State.reset = .next State.reset := by
  refine ⟨⟨by decide, by decide, by decide, by decide, ?_, ?_⟩, rfl⟩
  · simp [Mcu.faultWf, State.reset, Mcu.reset]
  · simp [Bse.wf, Bse.accClear, Bse.outWritten, State.reset, Bse.reset, Memory.wfBelow, Memory.sorted]
-- the first bit of a byte with no position left, and with one; the eighth bit with none left
theorem witness_PutBitCommand :
    (let s := encoding ⟨0#8, 0#3, 0, 1, [(0, 9#8)], none⟩;
      s.bse.bfault = none ∧ s.bse.cnt = 0#3 ∧ s.bse.wp = s.params.outCap)
    ∧ (let s := encoding ⟨0#8, 0#3, 0, 0, [], none⟩;
      s.bse.bfault = none ∧ ¬(s.bse.cnt = 0#3 ∧ s.bse.wp = s.params.outCap))
    ∧ (let s := encoding ⟨0xFE#8, 7#3, 0, 1, [], none⟩;
      s.bse.bfault = none ∧ ¬(s.bse.cnt = 0#3 ∧ s.bse.wp = s.params.outCap)) := by decide
-- counts 0, 9, 1 and 8; a slot needed and not needed with none left
theorem witness_PutBitsIsPutBitSequence :
    (encoding Bse.reset).bse.bfault = none
    ∧ ((0#4).toNat = 0 ∨ 8 < (0#4).toNat) ∧ ((9#4).toNat = 0 ∨ 8 < (9#4).toNat)
    ∧ 1 ≤ (1#4).toNat ∧ (8#4).toNat ≤ 8
    ∧ (let s := encoding ⟨0xFE#8, 7#3, 0, 1, [], none⟩;
      s.bse.bfault = none
      ∧ (s.bse.cnt = 0#3 ∨ 8 < s.bse.cnt.toNat + (2#4).toNat) ∧ s.bse.wp = s.params.outCap
      ∧ ¬((s.bse.cnt = 0#3 ∨ 8 < s.bse.cnt.toNat + (1#4).toNat) ∧ s.bse.wp = s.params.outCap)) := by decide
theorem witness_FlushWritesPendingByte :
    (encoding Bse.reset).bse.bfault = none ∧ (encoding Bse.reset).bse.cnt = 0#3
    ∧ (encoding ⟨0x80#8, 1#3, 0, 1, [], none⟩).bse.bfault = none
    ∧ (encoding ⟨0x80#8, 1#3, 0, 1, [], none⟩).bse.cnt ≠ 0#3 := by decide
theorem witness_PutByteAppends :
    (let s := encoding ⟨0x80#8, 1#3, 0, 1, [], none⟩;
      s.bse.bfault = none ∧ s.bse.wp = s.params.outCap)
    ∧ (encoding Bse.reset).bse.bfault = none ∧ (encoding Bse.reset).bse.wp ≠ (encoding Bse.reset).params.outCap := by
  decide
-- a command that faults; a faulted encoder; words at the edges of op = 1
theorem witness_EncoderFaultLatch :
    ((Instr.putbits 0#4 0#8).isBse = true ∧ State.reset.bse.bfault = none
      ∧ exec (.putbits 0#4 0#8) State.reset = .next (State.reset.raiseBse .badCommand)
      ∧ (State.reset.raiseBse .badCommand).bse.bfault ≠ none)
    ∧ (State.reset.raiseBse .outputFull).bse.bfault ≠ none
    ∧ (0x0FFF#16).toNat / 4096 ≠ 1 ∧ (0x2000#16).toNat / 4096 ≠ 1
    ∧ (0x1FFF#16).toNat / 4096 = 1 ∧ (0x1001#16).toNat / 4096 = 1 ∧ (0x1001#16) ≠ (0x1000#16) :=
  ⟨⟨rfl, rfl, rfl, by decide⟩, by decide⟩
-- words at the edge of each illegal form, and the nearest legal ones
theorem witness_IllegalWordsAreBadCommands :
    State.reset.bse.bfault = none
    ∧ (illegalWord 0x0FFF#16 ∧ illegalWord 0x6000#16 ∧ illegalWord 0x1001#16 ∧ illegalWord 0x2002#16
      ∧ illegalWord 0x30FF#16 ∧ illegalWord 0x3900#16 ∧ illegalWord 0x4100#16 ∧ illegalWord 0x5001#16)
    ∧ ¬illegalWord 0x1000#16 ∧ ¬illegalWord 0x2001#16 ∧ ¬illegalWord 0x3100#16 ∧ ¬illegalWord 0x38FF#16
    ∧ ¬illegalWord 0x40FF#16 ∧ ¬illegalWord 0x5000#16 :=
  ⟨by decide,
    ⟨by decide, by decide, by decide, by decide, by decide, by decide, by decide, by decide⟩,
    by decide, by decide, by decide, by decide, by decide, by decide⟩
-- nine bits into the only two positions
theorem witness_PlainPacking :
    let cmds : List Instr := [.putbits 8#4 0xA5#8, .putbit true]
    let s : State := { State.reset with params := ⟨65536, 2, 2⟩ }
    (∀ c ∈ cmds, sendsBits c = true) ∧ ((cmds.flatMap sentBits).length + 7) / 8 ≤ s.params.outCap := by decide
theorem witness_CostConsistency :
    (∀ c ∈ [Instr.putbits 3#4 5#8, .putbyte 0xAB#8], c.isBse = true ∧ c ≠ .bsinit ∧ c ≠ .flush)
    ∧ ∃ t, execAll (.bsinit :: [.putbits 3#4 5#8, .putbyte 0xAB#8] ++ [.flush]) State.reset = .next t
      ∧ t.bse.bfault = none :=
  ⟨by decide, _, rfl, rfl⟩
theorem witness_HostResetValues : (asked (boot 1 [0x01#8]) .reset).inbox = .host .reset :: [] := by decide
-- every refused form, the addresses and indices at their bounds
theorem witness_RefusedTransactionsChangeNothing :
    (boot 1 []).mcu.run ≠ .stopped ∧ (State.reset.setRun .halted).mcu.run ≠ .stopped
    ∧ (boot 1 []).mcu.run = .running ∧ (boot 1 []).params.progSize ≤ 1
    ∧ (stacked [7#16]).sd ≤ 1 ∧ State.reset.bse.wp ≤ 0
    ∧ (asked (boot 1 []) (.loadProg 1 0#8)).inbox = .host (.loadProg 1 0#8) :: []
    ∧ (asked (boot 1 []) .start).inbox = .host .start :: []
    ∧ (asked (boot 1 []) (.readReg 3)).inbox = .host (.readReg 3) :: []
    ∧ (asked (stacked [7#16]) (.readStk 1)).inbox = .host (.readStk 1) :: []
    ∧ (asked State.reset (.bseOut 0)).inbox = .host (.bseOut 0) :: [] := by decide
theorem witness_HostWritesWhenStopped :
    State.reset.mcu.run = .stopped ∧ 65535 < State.reset.params.progSize
    ∧ (asked State.reset (.writeRam 0xFFFF#16 1#8)).inbox = .host (.writeRam 0xFFFF#16 1#8) :: []
    ∧ (asked State.reset (.loadProg 65535 1#8)).inbox = .host (.loadProg 65535 1#8) :: []
    ∧ (asked State.reset (.writeReg 3 7#16)).inbox = .host (.writeReg 3 7#16) :: []
    -- the widest value of the 8-bit FLAGS (R43), and a wider one, which only log 8 covers
    ∧ (asked State.reset (.writeReg 5 0x00FF#16)).inbox = .host (.writeReg 5 0x00FF#16) :: []
    ∧ (asked State.reset (.writeReg 5 0xFFFF#16)).inbox = .host (.writeReg 5 0xFFFF#16) :: []
    ∧ (asked State.reset (.writeReg 15 0xFF#16)).inbox
      = .host (.writeReg (8 + Reg.r7.num.toNat) ((0xFF#8).setWidth 16)) :: []
    ∧ (asked State.reset .start).inbox = .host .start :: [] := by decide
-- each read, the last with the pending byte's own position
theorem witness_HostReadsHaveNoEffect :
    (asked State.reset .readState).inbox = .host .readState :: [] ∧ State.reset.mcu.run ≠ .running
    ∧ (asked State.reset (.readReg 8)).inbox = .host (.readReg (8 + Reg.r0.num.toNat)) :: []
    ∧ (asked State.reset (.readReg 5)).inbox = .host (.readReg 5) :: []
    ∧ (asked State.reset (.readReg 1)).inbox = .host (.readReg 1) :: []
    ∧ (State.reset.mcu.fault, 0) ∈ [((none : Option McuFault), 0), (some .illegalInstruction, 1)]
    ∧ (asked State.reset (.bseRead 4)).inbox = .host (.bseRead 4) :: []
    ∧ (asked State.reset (.readRam 0xFFFF#16)).inbox = .host (.readRam 0xFFFF#16) :: []
    ∧ (stacked [7#16, 8#16]).stkEntry 0 = some 8#16
    ∧ (asked State.reset (.readStk 0)).inbox = .host (.readStk 0) :: []
    ∧ (let s := encoding ⟨0x80#8, 1#3, 0, 2, [(1, 9#8)], none⟩;
      1 < s.bse.wp ∧ ¬(s.bse.cnt ≠ 0#3 ∧ 1 = s.bse.slot) ∧ s.bse.outAt 1 = some 9#8
        ∧ 0 < s.bse.wp ∧ s.bse.cnt ≠ 0#3 ∧ 0 = s.bse.slot)
    ∧ (asked State.reset (.bseOut 1)).inbox = .host (.bseOut 1) :: [] := by decide

end Sys2Proof.Machine.Tests
end

/-! PROOF. Neither unit reads or writes the other's state (rule R2).

One notion serves both units: an action is isolated from a part of the state when its result keeps a frame around
its own unit, and when exchanging that part before the action is the same as exchanging it after. -/

namespace Sys2Proof.Machine

/-- The MCU's state written, the counterpart of `State.setBse`. -/
def State.setMcu (s : State) (m : Mcu) : State := { s with mcu := m }

/-- `f` keeps `frame`, and neither reads nor writes the part of the state that `swap` exchanges. -/
def Isolated {σ : Type} (frame : State → State → Prop) (swap : State → σ → State) (f : State → Result) : Prop :=
  ∀ s t, f s = .next t → frame s t ∧ ∀ x, f (swap s x) = .next (swap t x)

/-- `f` writes MCU state only and does not read the BSE. -/
abbrev McuOnly : (State → Result) → Prop := Isolated SameOutsideMcu State.setBse

/-- `f` writes BSE state only and does not read the MCU. -/
abbrev BseOnly : (State → Result) → Prop := Isolated SameOutsideBse State.setMcu

section
variable {σ α : Type} {frame : State → State → Prop} {swap : State → σ → State}

theorem isolated_next {op : State → State} (hframe : ∀ s, frame s (op s))
    (hswap : ∀ s x, op (swap s x) = swap (op s) x) : Isolated frame swap fun s => .next (op s) := by
  rintro s _ ⟨⟩
  exact ⟨hframe s, fun x => congrArg _ (hswap s x)⟩

/-- An action chosen by a value that does not depend on the exchanged part. -/
theorem isolated_reads {rd : State → α} {f : α → State → Result} (hrd : ∀ s x, rd (swap s x) = rd s)
    (hf : ∀ a, Isolated frame swap (f a)) : Isolated frame swap fun s => f (rd s) s := by
  intro s t h
  obtain ⟨hframe, hswap⟩ := hf (rd s) s t h
  exact ⟨hframe, fun x => (congrArg (f · (swap s x)) (hrd s x)).trans (hswap x)⟩

/-- A branch on a test that does not depend on the exchanged part. -/
theorem isolated_ite {c : State → Bool} {yes no : State → State} (hc : ∀ s x, c (swap s x) = c s)
    (hyes : Isolated frame swap fun s => .next (yes s)) (hno : Isolated frame swap fun s => .next (no s)) :
    Isolated frame swap fun s => .next (if c s then yes s else no s) :=
  isolated_reads (f := fun b s => .next (if b then yes s else no s)) hc fun
    | true => hyes
    | false => hno

end

/-! ### The MCU -/

/-- One update of MCU state: `hwrite` says what it writes, `hread` what it does not read. -/
theorem mcuOnly_update {op : State → State} (hwrite : ∀ s, op s = s.setMcu (op s).mcu)
    (hread : ∀ s e, op (s.setBse e) = (op s).setBse e) : McuOnly fun s => .next (op s) :=
  isolated_next (fun s => hwrite s ▸ ⟨rfl, rfl, rfl, rfl, rfl, rfl⟩) hread

theorem raise_mcuOnly (k : McuFault) : McuOnly fun s => .next (s.raise k) :=
  mcuOnly_update (fun _ => rfl) fun _ _ => rfl

theorem advance_mcuOnly (n : Nat) : McuOnly fun s => .next (s.advance n) :=
  mcuOnly_update (fun _ => rfl) fun _ _ => rfl

/-- An action on the top entry of the stack, with the underflow check before it. -/
theorem mcuOnly_takeTop {op : Word → List Word → State → State}
    (hop : ∀ top rest, McuOnly fun s => .next (op top rest s)) :
    McuOnly fun s => match s.mcu.stk with
      | [] => .next (s.raise .stackUnderflow)
      | top :: rest => .next (op top rest s) :=
  isolated_reads (rd := fun s => s.mcu.stk)
    (f := fun stk s => match stk with
      | [] => .next (s.raise .stackUnderflow)
      | top :: rest => .next (op top rest s))
    (fun _ _ => rfl) fun
    | [] => raise_mcuOnly _
    | top :: rest => hop top rest

theorem execPop_mcuOnly (wp : Pair) : McuOnly (execPop wp) :=
  mcuOnly_takeTop fun _ _ => mcuOnly_update (fun _ => rfl) fun _ _ => rfl

theorem execXts_mcuOnly (wp : Pair) : McuOnly (execXts wp) :=
  mcuOnly_takeTop fun _ _ => mcuOnly_update (fun _ => rfl) fun _ _ => rfl

theorem returnTop_mcuOnly : McuOnly fun s => .next s.returnTop :=
  isolated_reads (rd := fun s => s.mcu.stk)
    (f := fun stk s => .next (match stk with
      | [] => s.raise .stackUnderflow
      | top :: rest => (s.setStk rest).setPc top))
    (fun _ _ => rfl) fun
    | [] => raise_mcuOnly _
    | _ :: _ => mcuOnly_update (fun _ => rfl) fun _ _ => rfl

theorem execPush_mcuOnly (wp : Pair) : McuOnly (execPush wp) :=
  isolated_reads (rd := State.stkFull)
    (f := fun full s => if full then .next (s.raise .stackOverflow)
      else .next ((s.pushStk (s.readPair wp)).advance 1))
    (fun _ _ => rfl) fun
    | true => raise_mcuOnly _
    | false => mcuOnly_update (fun _ => rfl) fun _ _ => rfl

theorem callTo_mcuOnly (nn : Word) : McuOnly fun s => .next (s.callTo nn) :=
  isolated_ite (fun _ _ => rfl) (raise_mcuOnly _) (mcuOnly_update (fun _ => rfl) fun _ _ => rfl)

/-- A transfer on a condition of the flags. -/
theorem mcuOnly_onCond {yes no : State → State} (cc : Cond) (hyes : McuOnly fun s => .next (yes s))
    (hno : McuOnly fun s => .next (no s)) :
    McuOnly fun s => .next (if condHolds cc s.mcu.flags then yes s else no s) :=
  isolated_ite (fun _ _ => rfl) hyes hno

/-- An update of MCU state, then `pc` moved on. -/
theorem mcuOnly_update_advance {op : State → State} (n : Nat) (hwrite : ∀ s, op s = s.setMcu (op s).mcu)
    (hread : ∀ s e, op (s.setBse e) = (op s).setBse e) : McuOnly fun s => .next ((op s).advance n) :=
  mcuOnly_update (fun s => congrArg (State.advance · n) (hwrite s))
    fun s e => congrArg (State.advance · n) (hread s e)

/-- Stated for every `dir`: with a literal in its place the `rfl` proofs compute on the literal's value. -/
theorem bcStep_advance_mcuOnly (dir : Word) : McuOnly fun s => .next ((s.bcStep dir).advance 1) :=
  mcuOnly_update_advance 1 (fun _ => rfl) fun _ _ => rfl

theorem State.bcRepeat_setBse (dir : Word) (n : Nat) (s : State) (e : Bse) :
    State.bcRepeat dir n (s.setBse e) = (State.bcRepeat dir n s).setBse e := by
  induction n generalizing s with
  | zero => rfl
  | succ n ih =>
    have hstep : (s.setBse e).bcStep dir = (s.bcStep dir).setBse e := rfl
    have hcount : ((s.bcStep dir).setBse e).readPair bcCount = (s.bcStep dir).readPair bcCount := rfl
    simp only [State.bcRepeat, hstep, hcount, ih]
    split <;> rfl

theorem State.bcRepeat_setMcu (dir : Word) (n : Nat) (s : State) :
    State.bcRepeat dir n s = s.setMcu (State.bcRepeat dir n s).mcu := by
  rw [State.bcRepeat_frame]
  rfl

theorem bcRepeat_advance_mcuOnly (dir : Word) (n : Nat) :
    McuOnly fun s => .next ((State.bcRepeat dir n s).advance 1) :=
  mcuOnly_update_advance 1 (State.bcRepeat_setMcu dir n) (State.bcRepeat_setBse dir n)

/-- No MCU instruction reads or writes anything outside the MCU but the parameters: those that complete in one
update by the update itself, the others by the branch they take. -/
theorem exec_mcuOnly {i : Instr} (hi : i.isMcu = true) : McuOnly (exec i) := by
  cases i with
  | nop | halt | err | jp | ldRR | ldRN | ldWNN | ldRMem | ldMemR | inc | dec | incw | decw | rl | rr | shl | shr
  | bit | res | addw | adcw | sbcw | xchw | xchb =>
    exact mcuOnly_update (fun _ => rfl) fun _ _ => rfl
  | bci => exact bcStep_advance_mcuOnly bcUp
  | bcd => exact bcStep_advance_mcuOnly bcDown
  | bcir => exact bcRepeat_advance_mcuOnly bcUp bcFuel
  | bcdr => exact bcRepeat_advance_mcuOnly bcDown bcFuel
  | push wp => exact execPush_mcuOnly wp
  | pop wp => exact execPop_mcuOnly wp
  | xts wp => exact execXts_mcuOnly wp
  | jpCc cc nn => exact mcuOnly_onCond cc (mcuOnly_update (fun _ => rfl) fun _ _ => rfl) (advance_mcuOnly 3)
  | call nn => exact callTo_mcuOnly nn
  | callCc cc nn => exact mcuOnly_onCond cc (callTo_mcuOnly nn) (advance_mcuOnly 3)
  | ret => exact returnTop_mcuOnly
  | retCc cc => exact mcuOnly_onCond cc returnTop_mcuOnly (advance_mcuOnly 1)
  | bsinit | putbit | putbits | putbyte | flush => contradiction

/-! ### The BSE -/

/-- One update of BSE state: the new BSE is a function of the old one. -/
theorem setBse_bseOnly (g : Bse → Bse) : BseOnly fun s => .next (s.setBse (g s.bse)) :=
  isolated_next (fun _ => ⟨rfl, rfl, rfl, rfl, rfl, rfl⟩) fun _ _ => rfl

theorem raiseBse_bseOnly (k : BseFault) : BseOnly fun s => .next (s.raiseBse k) :=
  setBse_bseOnly fun e => { e with bfault := some k }

/-- The fault latch before a command. -/
theorem bseOnly_unlessFaulted {act : State → State} (hact : BseOnly fun s => .next (act s)) :
    BseOnly fun s => s.bseUnlessFaulted (act s) :=
  isolated_reads (rd := fun s => s.bse.bfault)
    (f := fun latch s => match latch with
      | some _ => .next s
      | none => .next (act s))
    (fun _ _ => rfl) fun
    | some _ => setBse_bseOnly id
    | none => hact

/-- The check for an output position before a command. -/
theorem bseOnly_unlessFull {c : State → Bool} (hc : ∀ s m, c (s.setMcu m) = c s) (g : Bse → Bse) :
    BseOnly fun s => .next (if c s then s.raiseBse .outputFull else s.setBse (g s.bse)) :=
  isolated_ite hc (raiseBse_bseOnly _) (setBse_bseOnly g)

theorem execPutbits_bseOnly (n : BitVec 4) (v : Byte) : BseOnly (execPutbits n v) := by
  refine bseOnly_unlessFaulted ?_
  by_cases hn : n.toNat = 0 ∨ 8 < n.toNat
  · simp only [if_pos hn]
    exact raiseBse_bseOnly _
  · simp only [if_neg hn]
    exact bseOnly_unlessFull (fun _ _ => rfl) _

/-- No BSE command reads or writes anything outside the BSE but the parameters. -/
theorem exec_bseOnly {i : Instr} (hi : i.isBse = true) : BseOnly (exec i) := by
  cases i with
  | bsinit => exact setBse_bseOnly Bse.init
  | putbit b => exact bseOnly_unlessFaulted (bseOnly_unlessFull (fun _ _ => rfl) (Bse.putBit · b))
  | putbits n v => exact execPutbits_bseOnly n v
  | putbyte v => exact bseOnly_unlessFaulted (bseOnly_unlessFull (fun _ _ => rfl) (Bse.putByte · v))
  | flush => exact bseOnly_unlessFaulted (setBse_bseOnly Bse.flush)
  | _ => contradiction

/-- Settles O32: each unit's instructions are isolated from the other unit's state. -/
theorem unitsShareNoState : Obligations.UnitsShareNoState := fun _ s t h =>
  ⟨fun hi => exec_mcuOnly hi s t h, fun hi => exec_bseOnly hi s t h⟩

end Sys2Proof.Machine

/-! PROOF. The encoder's invariant (rules R46, R137): every command that finds room keeps it.

A byte is under construction between the claim of its position and the write into it. `Bse.Pending` describes the
encoder there, and `Bse.space` counts the bits that still find an output position. -/

namespace Sys2Proof.Machine

/-- A byte is under construction at `slot`: the invariant of rule R46 with that position claimed, whatever `cnt`
is, and every other claimed position written. -/
structure Bse.Pending (outCap : Nat) (e : Bse) : Prop where
  accClear : e.accClear
  wp_le : e.wp ≤ outCap
  slot_lt : e.slot < e.wp
  out_wf : Memory.wfBelow outCap e.out
  written : ∀ i < e.wp, i = e.slot ∨ (e.outAt i).isSome = true

/-- How many more bits find an output position: those of the pending byte, and 8 for each free position. -/
def Bse.space (outCap : Nat) (e : Bse) : Nat := 8 * (outCap - e.wp) + (8 - e.cnt.toNat) % 8

theorem Bse.pendingAt_iff {e : Bse} {i : Nat} : e.pendingAt i = true ↔ e.cnt ≠ 0#3 ∧ i = e.slot := by
  simp [Bse.pendingAt]

theorem Bse.isSome_outAt_put {e : Bse} {i a : Nat} (v : Byte) (h : i = a ∨ (e.outAt i).isSome = true) :
    (Memory.find i (Memory.put a v e.out)).isSome = true := by
  rw [Memory.find_put]
  split
  · rfl
  · next hne => exact h.resolve_left hne

theorem cnt_eq_zero_iff {c : BitVec 3} : c = 0#3 ↔ c.toNat = 0 :=
  BitVec.toNat_inj.symm

theorem Bse.wf_reset (outCap : Nat) : Bse.wf outCap Bse.reset :=
  ⟨fun _ _ => BitVec.getLsbD_zero, Nat.zero_le _, fun h => absurd rfl h, ⟨.nil, nofun⟩, nofun⟩

theorem Bse.wf_init {outCap : Nat} {e : Bse} (h : e.wf outCap) : e.init.wf outCap := by
  obtain ⟨-, -, -, hout, -⟩ := h
  exact ⟨fun _ _ => BitVec.getLsbD_zero, Nat.zero_le _, fun h => absurd rfl h, hout, nofun⟩

/-- Between two bits of a byte the encoder is well formed. -/
theorem Bse.Pending.wf {outCap : Nat} {e : Bse} (h : e.Pending outCap) (hc : e.cnt ≠ 0#3) : e.wf outCap :=
  ⟨h.accClear, h.wp_le, fun _ => h.slot_lt, h.out_wf,
    fun i hi => (h.written i hi).imp (fun hs => Bse.pendingAt_iff.2 ⟨hc, hs⟩) id⟩

theorem Bse.pending_of_wf {outCap : Nat} {e : Bse} (h : e.wf outCap) (hc : e.cnt ≠ 0#3) : e.Pending outCap := by
  obtain ⟨hacc, hwp, hslot, hout, hwritten⟩ := h
  exact ⟨hacc, hwp, hslot hc, hout, fun i hi => (hwritten i hi).imp (fun hp => (Bse.pendingAt_iff.1 hp).2) id⟩

/-- The byte under construction written to its position, by its eighth bit or by `FLUSH`. -/
theorem Bse.Pending.wf_written {outCap : Nat} {e : Bse} (h : e.Pending outCap) (v : Byte) :
    Bse.wf outCap { e with out := Memory.put e.slot v e.out, acc := 0x00#8, cnt := 0#3 } :=
  ⟨fun _ _ => BitVec.getLsbD_zero, h.wp_le, fun hc => absurd rfl hc,
    Memory.wfBelow_put h.out_wf (Nat.lt_of_lt_of_le h.slot_lt h.wp_le) v,
    fun i hi => .inr (Bse.isSome_outAt_put v (h.written i hi))⟩

/-- The first bit of a byte claims a position that exists. -/
theorem Bse.pending_claim {outCap : Nat} {e : Bse} (h : e.wf outCap) (hroom : 0 < e.space outCap) :
    e.claim.Pending outCap := by
  rcases e.claim_cases with ⟨hc, he⟩ | ⟨hc, he⟩ <;> rw [he]
  · obtain ⟨hacc, -, -, hout, hwritten⟩ := h
    have hwp : e.wp < outCap := by simp only [Bse.space, hc, BitVec.toNat_ofNat] at hroom; omega
    refine ⟨hacc, hwp, Nat.lt_succ_self _, hout, fun i hi => ?_⟩
    rcases Nat.lt_succ_iff_lt_or_eq.1 hi with hi | hi
    · exact .inr ((hwritten i hi).resolve_left fun hp => (Bse.pendingAt_iff.1 hp).1 hc)
    · exact .inl hi
  · exact Bse.pending_of_wf h hc

theorem cnt_succ_toNat {c : BitVec 3} (h : c ≠ 7#3) : (c + 1#3).toNat = c.toNat + 1 := by
  have : c.toNat ≠ 7 := fun h' => h (BitVec.eq_of_toNat_eq h')
  rw [BitVec.toNat_add, BitVec.toNat_ofNat]
  omega

/-- A bit that does not fill the byte lands in the highest free bit of `ACC`. -/
theorem Bse.accClear_putBitAt {e : Bse} (h : e.accClear) (hc : e.cnt ≠ 7#3) (b : Bool) :
    Bse.accClear { e with acc := putBitAt e.acc (7 - e.cnt.toNat) b, cnt := e.cnt + 1#3 } := by
  intro i hi
  rw [cnt_succ_toNat hc] at hi
  rw [getLsbD_putBitAt _ (by omega), if_neg (by omega)]
  exact h i (by omega)

theorem Bse.Pending.wf_accept {outCap : Nat} {e : Bse} (h : e.Pending outCap) (b : Bool) :
    (e.accept b).wf outCap := by
  rcases e.accept_cases b with ⟨-, he⟩ | ⟨hc, he⟩ <;> rw [he]
  · exact h.wf_written _
  · refine Bse.Pending.wf ⟨Bse.accClear_putBitAt h.accClear hc b, h.wp_le, h.slot_lt, h.out_wf, h.written⟩ ?_
    rw [Ne, cnt_eq_zero_iff, cnt_succ_toNat hc]
    exact Nat.succ_ne_zero _

theorem Bse.wf_putBit {outCap : Nat} {e : Bse} (h : e.wf outCap) (hroom : 0 < e.space outCap) (b : Bool) :
    (e.putBit b).wf outCap :=
  (Bse.pending_claim h hroom).wf_accept b

/-- A bit sent takes one bit of the space left. -/
theorem Bse.space_putBit {outCap : Nat} {e : Bse} (hroom : 0 < e.space outCap) (b : Bool) :
    (e.putBit b).space outCap + 1 = e.space outCap := by
  unfold Bse.space at *
  rw [Bse.putBit_cnt, Bse.putBit_wp, BitVec.toNat_add, BitVec.toNat_ofNat]
  have := e.cnt.isLt
  simp only [cnt_eq_zero_iff]
  split <;> omega

theorem Bse.wf_putBits {outCap : Nat} (n : Nat) (v : Byte) {e : Bse} (h : e.wf outCap) (hroom : n ≤ e.space outCap) :
    (Bse.putBits n v e).wf outCap := by
  induction n generalizing e with
  | zero => exact h
  | succ n ih =>
    have hpos : 0 < e.space outCap := Nat.lt_of_lt_of_le n.succ_pos hroom
    refine ih (Bse.wf_putBit h hpos _) ?_
    rw [← Bse.space_putBit hpos] at hroom
    exact Nat.le_of_succ_le_succ hroom

theorem Bse.wf_putByte {outCap : Nat} {e : Bse} (h : e.wf outCap) (hfull : e.wp ≠ outCap) (v : Byte) :
    (e.putByte v).wf outCap := by
  obtain ⟨hacc, hwp, hslot, hout, hwritten⟩ := h
  have hlt : e.wp < outCap := Nat.lt_of_le_of_ne hwp hfull
  refine ⟨hacc, hlt, fun hc => Nat.lt_succ_of_lt (hslot hc), Memory.wfBelow_put hout hlt v, fun i hi => ?_⟩
  rcases Nat.lt_succ_iff_lt_or_eq.1 hi with hi | hi
  · exact (hwritten i hi).imp id fun hs => Bse.isSome_outAt_put v (.inr hs)
  · exact .inr (Bse.isSome_outAt_put v (.inl hi))

theorem Bse.wf_flush {outCap : Nat} {e : Bse} (h : e.wf outCap) : e.flush.wf outCap := by
  rcases e.flush_cases with ⟨-, he⟩ | ⟨hc, he⟩ <;> rw [he]
  · exact h
  · exact (Bse.pending_of_wf h hc).wf_written _

/-- The check of `PUTBITS` before its first bit (rule R133) leaves room for all its bits. -/
theorem Bse.le_space {outCap n : Nat} {e : Bse} (hwp : e.wp ≤ outCap) (hn : n ≤ 8)
    (hroom : ¬((e.cnt = 0#3 ∨ 8 < e.cnt.toNat + n) ∧ e.wp = outCap)) : n ≤ e.space outCap := by
  unfold Bse.space
  rw [cnt_eq_zero_iff] at hroom
  have := e.cnt.isLt
  omega

/-- A command other than `BSINIT` does nothing while `BFAULT` is set (rule R240). -/
theorem exec_bse_latched {i : Instr} (hi : i.isBse = true) (hinit : i ≠ .bsinit) {s : State}
    (hs : s.bse.bfault ≠ none) : exec i s = .next s := by
  have hlatch (act : State) : s.bseUnlessFaulted act = .next s :=
    (s.bseUnlessFaulted_cases act).elim (·.2) fun h => absurd h.1 hs
  cases i with
  | bsinit => exact absurd rfl hinit
  | putbit | putbits | putbyte | flush => exact hlatch _
  | _ => contradiction

/-- No command breaks the encoder's invariant: each by the checks it makes before it writes. -/
theorem exec_keeps_bse_wf {i : Instr} (hi : i.isBse = true) {s t : State} (hs : s.bse.wf s.params.outCap)
    (h : exec i s = .next t) : t.bse.wf s.params.outCap := by
  by_cases hinit : i = .bsinit
  · subst hinit
    cases h
    exact Bse.wf_init hs
  by_cases hb : s.bse.bfault = none
  swap
  · rw [exec_bse_latched hi hinit hb] at h
    cases h
    exact hs
  have ⟨_, hwp, _⟩ := hs
  cases i with
  | bsinit => exact absurd rfl hinit
  | putbit b =>
    rcases execPutbit_cases hb b with ⟨-, -, he⟩ | ⟨hroom, he⟩ <;> cases he.symm.trans h
    · exact hs
    · have hneed : ¬((s.bse.cnt = 0#3 ∨ 8 < s.bse.cnt.toNat + 1) ∧ s.bse.wp = s.params.outCap) :=
        fun ⟨hc, hfull⟩ => hroom ⟨hc.resolve_right (by omega), hfull⟩
      exact Bse.wf_putBit hs (Bse.le_space hwp (by decide : 1 ≤ 8) hneed) b
  | putbits n v =>
    rcases execPutbits_cases hb n v with ⟨-, he⟩ | ⟨-, -, -, -, he⟩ | ⟨-, hn, hroom, he⟩ <;> cases he.symm.trans h
    · exact hs
    · exact hs
    · exact Bse.wf_putBits _ v hs (Bse.le_space hwp hn hroom)
  | putbyte v =>
    rcases execPutbyte_cases hb v with ⟨-, he⟩ | ⟨hfull, he⟩ <;> cases he.symm.trans h
    · exact hs
    · exact Bse.wf_putByte hs hfull v
  | flush =>
    cases (execFlush_none hb).symm.trans h
    exact Bse.wf_flush hs
  | _ => contradiction

end Sys2Proof.Machine

/-! PROOF. What an MCU instruction can do to the MCU, said once for all of them: it completes, halts, or faults. -/

namespace Sys2Proof.Machine

/-- The flags outside a mask are as before. -/
abbrev KeepsFlags (mask old new : Flags) : Prop :=
  (mask.c = false → new.c = old.c) ∧ (mask.z = false → new.z = old.z)
    ∧ (mask.s = false → new.s = old.s) ∧ (mask.pv = false → new.pv = old.pv)

theorem keepsFlags_of_eq {mask old new : Flags} (h : new = old) : KeepsFlags mask old new :=
  h ▸ ⟨fun _ => rfl, fun _ => rfl, fun _ => rfl, fun _ => rfl⟩

/-- What an MCU instruction that completes keeps and, unless it is a taken transfer, how it moves `pc`. -/
structure Completes (i : Instr) (s t : State) : Prop where
  runRegs : SameRunRegs s t
  flags : KeepsFlags (flagMask i) s.mcu.flags t.mcu.flags
  ram : Memory.wf s.mcu.ram → Memory.wf t.mcu.ram
  depth : s.sd ≤ s.params.stackDepth → t.sd ≤ s.params.stackDepth
  pc : transferTaken s.mcu.flags i = false → t.mcu.pc = s.pcPlus i.size

/-- The ways an MCU instruction can end. -/
inductive McuEnds (i : Instr) (s t : State) : Prop where
  | completes (h : Completes i s t)
  | halts (hi : i = .halt) (ht : t = s.setRun .halted)
  | faults (k : McuFault) (ht : t = s.raise k)

theorem completes_advance {i : Instr} (s : State) : Completes i s (s.advance i.size) :=
  ⟨⟨rfl, rfl, rfl⟩, keepsFlags_of_eq rfl, id, id, fun _ => rfl⟩

/-! ### Block copies -/

theorem State.wf_ram_bcStep {s : State} (h : Memory.wf s.mcu.ram) (dir : Word) :
    Memory.wf (s.bcStep dir).mcu.ram :=
  Memory.wf_write h _ _

theorem State.wf_ram_bcRepeat {s : State} (h : Memory.wf s.mcu.ram) (dir : Word) (n : Nat) :
    Memory.wf (State.bcRepeat dir n s).mcu.ram := by
  induction n generalizing s with
  | zero => exact h
  | succ n ih =>
    simp only [State.bcRepeat]
    split
    · exact State.wf_ram_bcStep h dir
    · exact ih (State.wf_ram_bcStep h dir)

/-- A block copy, by the frame of the state `u` it leaves before `pc` moves on. -/
theorem completes_blockCopy {i : Instr} {s u : State}
    (hframe : u = { s with mcu := { s.mcu with regs := u.mcu.regs, ram := u.mcu.ram } })
    (hram : Memory.wf s.mcu.ram → Memory.wf u.mcu.ram) : Completes i s (u.advance i.size) := by
  rw [hframe]
  exact ⟨⟨rfl, rfl, rfl⟩, keepsFlags_of_eq rfl, hram, id, fun _ => rfl⟩

/-! ### The stack and control transfers -/

theorem sd_pushStk_le {s : State} (hfull : s.sd ≠ s.params.stackDepth) (v : Word)
    (h : s.sd ≤ s.params.stackDepth) : (s.pushStk v).sd ≤ s.params.stackDepth :=
  Nat.lt_of_le_of_ne h hfull

theorem sd_tail_le {s : State} {top : Word} {rest : List Word} (hstk : s.mcu.stk = top :: rest) {d : Nat}
    (h : s.sd ≤ d) : rest.length ≤ d := by
  rw [State.sd, hstk] at h
  exact Nat.le_of_succ_le h

theorem mcuEnds_push {wp : Pair} {s t : State} (h : execPush wp s = .next t) : McuEnds (.push wp) s t := by
  rcases execPush_cases wp s with ⟨-, he⟩ | ⟨hfull, he⟩ <;> cases he.symm.trans h
  · exact .faults _ rfl
  · exact .completes ⟨⟨rfl, rfl, rfl⟩, keepsFlags_of_eq rfl, id, sd_pushStk_le hfull _, fun _ => rfl⟩

theorem mcuEnds_pop {wp : Pair} {s t : State} (h : execPop wp s = .next t) : McuEnds (.pop wp) s t := by
  rcases execPop_cases wp s with ⟨-, he⟩ | ⟨top, rest, hstk, he⟩ <;> cases he.symm.trans h
  · exact .faults _ rfl
  · exact .completes ⟨⟨rfl, rfl, rfl⟩, keepsFlags_of_eq rfl, id, sd_tail_le hstk, fun _ => rfl⟩

theorem mcuEnds_xts {wp : Pair} {s t : State} (h : execXts wp s = .next t) : McuEnds (.xts wp) s t := by
  rcases execXts_cases wp s with ⟨-, he⟩ | ⟨top, rest, hstk, he⟩ <;> cases he.symm.trans h
  · exact .faults _ rfl
  · have hsd : s.sd = rest.length + 1 := congrArg List.length hstk
    exact .completes ⟨⟨rfl, rfl, rfl⟩, keepsFlags_of_eq rfl, id, hsd.symm.trans_le, fun _ => rfl⟩

/-- A transfer that is taken, of which nothing is said about `pc`. -/
theorem mcuEnds_taken {i : Instr} {s t : State} (htaken : transferTaken s.mcu.flags i = true)
    (hrun : SameRunRegs s t) (hflags : t.mcu.flags = s.mcu.flags) (hram : t.mcu.ram = s.mcu.ram)
    (hdepth : s.sd ≤ s.params.stackDepth → t.sd ≤ s.params.stackDepth) : McuEnds i s t :=
  .completes ⟨hrun, keepsFlags_of_eq hflags, (hram ▸ ·), hdepth, fun h => Bool.noConfusion (htaken.symm.trans h)⟩

theorem mcuEnds_callTo {i : Instr} {s : State} (htaken : transferTaken s.mcu.flags i = true) (nn : Word) :
    McuEnds i s (s.callTo nn) := by
  rcases s.callTo_cases nn with ⟨-, he⟩ | ⟨hfull, he⟩ <;> rw [he]
  · exact .faults _ rfl
  · exact mcuEnds_taken htaken ⟨rfl, rfl, rfl⟩ rfl rfl (sd_pushStk_le hfull _)

theorem mcuEnds_returnTop {i : Instr} {s : State} (htaken : transferTaken s.mcu.flags i = true) :
    McuEnds i s s.returnTop := by
  rcases s.returnTop_cases with ⟨-, he⟩ | ⟨top, rest, hstk, he⟩ <;> rw [he]
  · exact .faults _ rfl
  · exact mcuEnds_taken htaken ⟨rfl, rfl, rfl⟩ rfl rfl (sd_tail_le hstk)

/-- A transfer on a condition. -/
theorem mcuEnds_onCond {i : Instr} {s u : State} {b : Bool} (hyes : b = true → McuEnds i s u) :
    McuEnds i s (if b then u else s.advance i.size) := by
  split
  · exact hyes ‹_›
  · exact .completes (completes_advance s)

/-! ### Every MCU instruction -/

/-- Everything an MCU instruction can do to the MCU: the instructions that complete in every state by the flags
they write (the rows of rule R29), the others by their checks. -/
theorem exec_mcuEnds {i : Instr} (hi : i.isMcu = true) {s t : State} (h : exec i s = .next t) : McuEnds i s t := by
  cases i with
  | nop | res | xchb | ldRN | ldWNN | ldRMem | ldRR | xchw =>
    cases h
    exact .completes ⟨⟨rfl, rfl, rfl⟩, keepsFlags_of_eq rfl, id, id, fun _ => rfl⟩
  | ldMemR =>
    cases h
    exact .completes ⟨⟨rfl, rfl, rfl⟩, keepsFlags_of_eq rfl, (Memory.wf_write · _ _), id, fun _ => rfl⟩
  | inc | dec | incw | decw =>
    cases h
    exact .completes ⟨⟨rfl, rfl, rfl⟩, ⟨fun _ => rfl, nofun, nofun, nofun⟩, id, id, fun _ => rfl⟩
  | rl | rr | shl | shr | addw | adcw | sbcw =>
    cases h
    exact .completes ⟨⟨rfl, rfl, rfl⟩, ⟨nofun, nofun, nofun, nofun⟩, id, id, fun _ => rfl⟩
  | bit =>
    cases h
    exact .completes ⟨⟨rfl, rfl, rfl⟩, ⟨fun _ => rfl, nofun, fun _ => rfl, fun _ => rfl⟩, id, id, fun _ => rfl⟩
  | bci => cases h; exact .completes (completes_blockCopy (s.bcStep_frame _) (State.wf_ram_bcStep · _))
  | bcd => cases h; exact .completes (completes_blockCopy (s.bcStep_frame _) (State.wf_ram_bcStep · _))
  | bcir => cases h; exact .completes (completes_blockCopy (s.bcRepeat_frame _ _) (State.wf_ram_bcRepeat · _ _))
  | bcdr => cases h; exact .completes (completes_blockCopy (s.bcRepeat_frame _ _) (State.wf_ram_bcRepeat · _ _))
  | push => exact mcuEnds_push h
  | pop => exact mcuEnds_pop h
  | xts => exact mcuEnds_xts h
  | halt => cases h; exact .halts rfl rfl
  | err => cases h; exact .faults _ rfl
  | jp => cases h; exact mcuEnds_taken rfl ⟨rfl, rfl, rfl⟩ rfl rfl id
  | call nn => cases h; exact mcuEnds_callTo rfl nn
  | ret => cases h; exact mcuEnds_returnTop rfl
  | jpCc => cases h; exact mcuEnds_onCond fun hc => mcuEnds_taken hc ⟨rfl, rfl, rfl⟩ rfl rfl id
  | callCc cc nn => cases h; exact mcuEnds_onCond fun hc => mcuEnds_callTo (i := .callCc cc nn) hc nn
  | retCc => cases h; exact mcuEnds_onCond fun hc => mcuEnds_returnTop hc
  | bsinit | putbit | putbits | putbyte | flush => contradiction

end Sys2Proof.Machine

/-! PROOF. The flags and `pc` after an instruction (rules R27, R29). -/

namespace Sys2Proof.Machine

theorem Completes.fault_eq {i : Instr} {s t : State} (h : Completes i s t) : t.mcu.fault = s.mcu.fault :=
  have ⟨_, hfault, _⟩ := h.runRegs
  hfault

theorem McuEnds.keepsFlags {i : Instr} {s t : State} (h : McuEnds i s t) :
    KeepsFlags (flagMask i) s.mcu.flags t.mcu.flags := by
  cases h with
  | completes h => exact h.flags
  | halts _ ht => exact ht ▸ keepsFlags_of_eq rfl
  | faults k ht => exact ht ▸ keepsFlags_of_eq rfl

/-- Settles O30: an MCU instruction by the way it ends; a BSE command writes no MCU state. -/
theorem flagsWrittenByTable : Obligations.FlagsWrittenByTable := by
  intro i s t h
  cases hi : i.isBse with
  | true =>
    obtain ⟨-, -, hmcu, -⟩ := (exec_bseOnly hi s t h).1
    exact keepsFlags_of_eq (congrArg Mcu.flags hmcu)
  | false => exact (exec_mcuEnds (congrArg not hi) h).keepsFlags

theorem pcMoved_pcPlus {s t : State} {n : Nat} (h : t.mcu.pc = s.pcPlus n) : PcMoved n s t := by
  rw [PcMoved, h, State.pcPlus, BitVec.toNat_add, BitVec.toNat_ofNat, Nat.add_mod_mod]

/-- Settles O31: `pc` by the way the instruction ends. -/
theorem pcAdvancesByLength : Obligations.PcAdvancesByLength := by
  intro i s t hi hs h
  refine ⟨fun ht hhalt htaken => ?_, fun hhalt => ?_, fun ht => ?_⟩
  · cases exec_mcuEnds hi h with
    | completes hc => exact pcMoved_pcPlus (hc.pc htaken)
    | halts hi' => exact absurd hi' hhalt
    | faults k hk => exact absurd ht (hk ▸ nofun)
  · subst hhalt
    cases h
    rfl
  · cases exec_mcuEnds hi h with
    | completes hc => exact absurd (hc.fault_eq.trans hs) ht
    | halts _ hk => exact hk ▸ rfl
    | faults k hk => exact hk ▸ rfl

end Sys2Proof.Machine

/-! PROOF. What a step does outside the running unit's data: the run state, the program store, the parameters
(rules R33, R40, R49). -/

namespace Sys2Proof.Machine

/-- Nothing of the block changed but what a host transaction gives back. -/
structure SameBlock (s t : State) : Prop where
  params : t.params = s.params
  prog : t.prog = s.prog
  mcu : t.mcu = s.mcu
  bse : t.bse = s.bse

theorem SameBlock.run {s t : State} (h : SameBlock s t) : t.mcu.run = s.mcu.run :=
  congrArg Mcu.run h.mcu

/-- Everything a host transaction can do (rule R263). -/
inductive HostEnds (op : HostOp) (s t : State) : Prop where
  /-- A read, or a refusal. -/
  | same (h : SameBlock s t)
  | reset (hop : op = .reset) (ht : t = s.hostReset)
  | loadProg (a : Nat) (v : Byte) (hop : op = .loadProg a v) (hs : s.mcu.run = .stopped)
      (ha : a < s.params.progSize) (ht : SameBlock { s with prog := Memory.put a v s.prog } t)
  | writeRam (a : Word) (v : Byte) (hs : s.mcu.run = .stopped) (ht : SameBlock (s.writeRam a v) t)
  | writeReg (regs : RegFile) (flags : Flags) (pc : Word) (hs : s.mcu.run = .stopped)
      (ht : SameBlock (s.setMcu { s.mcu with regs := regs, flags := flags, pc := pc }) t)
  | start (hop : op = .start) (hs : s.mcu.run = .stopped) (ht : SameBlock (s.setRun .running) t)
  | command (w : Word) (h : bseCommand w (s.answer .nothing) = .next t)

theorem sameBlock_answer (s : State) (r : Reply) : SameBlock s (s.answer r) := ⟨rfl, rfl, rfl, rfl⟩

theorem State.sameBlock_readUnlessRunning (s : State) (v : Option Nat) : SameBlock s (s.readUnlessRunning v) := by
  rcases s.readUnlessRunning_cases v with ⟨-, he⟩ | ⟨-, he⟩ <;> exact he ▸ sameBlock_answer s _

theorem State.sameBlock_hostBseOut (s : State) (i : Nat) : SameBlock s (s.hostBseOut i) := by
  rcases s.hostBseOut_cases i with ⟨-, he⟩ | he | ⟨v, -, he⟩ <;> exact he ▸ ⟨rfl, rfl, rfl, rfl⟩

/-- A transaction allowed in STOPPED only is refused, or made. -/
theorem hostEnds_whenStopped {op : HostOp} {s : State} {u : Option State}
    (h : ∀ v, s.mcu.run = .stopped → u = some v → HostEnds op s (v.answer .nothing)) :
    HostEnds op s (s.whenStopped u) := by
  rcases s.whenStopped_cases u with ⟨v, hs, hu, he⟩ | he <;> rw [he]
  · exact h v hs hu
  · exact .same (sameBlock_answer s _)

/-- A write of a host register writes general registers, the flags or `pc` (rule R43). -/
theorem State.hostWriteReg_eq_some {s u : State} {m : Nat} {v : Word} (h : s.hostWriteReg m v = some u) :
    u = s.setMcu { s.mcu with regs := u.mcu.regs, flags := u.mcu.flags, pc := u.mcu.pc } := by
  unfold State.hostWriteReg at h
  split at h
  · cases h; rfl
  · cases h; rfl
  · obtain ⟨r, -, rfl⟩ := Option.map_eq_some_iff.1 h
    rfl

theorem hostMove_ends {op : HostOp} {s t : State} (h : hostMove op s = .next t) : HostEnds op s t := by
  cases op with
  | reset => cases h; exact .reset rfl rfl
  | loadProg a v =>
    cases h
    refine hostEnds_whenStopped fun u hs hu => ?_
    obtain ⟨ha, hv⟩ := Option.ite_none_right_eq_some.1 hu
    cases hv
    exact .loadProg a v rfl hs ha (sameBlock_answer _ _)
  | writeRam a v =>
    cases h
    refine hostEnds_whenStopped fun u hs hu => ?_
    cases hu
    exact .writeRam a v hs (sameBlock_answer _ _)
  | writeReg m v =>
    cases h
    refine hostEnds_whenStopped fun u hs hu => .writeReg u.mcu.regs u.mcu.flags u.mcu.pc hs ?_
    rw [← State.hostWriteReg_eq_some hu]
    exact sameBlock_answer _ _
  | start =>
    cases h
    refine hostEnds_whenStopped fun u hs hu => ?_
    cases hu
    exact .start rfl hs (sameBlock_answer _ _)
  | readState => cases h; exact .same (sameBlock_answer _ _)
  | readReg => cases h; exact .same (s.sameBlock_readUnlessRunning _)
  | readRam => cases h; exact .same (s.sameBlock_readUnlessRunning _)
  | readStk => cases h; exact .same (s.sameBlock_readUnlessRunning _)
  | bseCmd w => exact .command w h
  | bseRead => cases h; exact .same (sameBlock_answer _ _)
  | bseOut => cases h; exact .same (s.sameBlock_hostBseOut _)

theorem decodeBse_isBse {w : Word} {i : Instr} {rest : List Byte} (h : decodeBse w = .instr i rest) :
    i.isBse = true := by
  unfold decodeBse at h
  split_ifs at h <;> cases h <;> rfl

/-- A command word, legal or not, writes BSE state only, and no command breaks the encoder's invariant. -/
theorem bseCommand_ends {w : Word} {s t : State} (h : bseCommand w s = .next t) :
    SameOutsideBse s t ∧ (s.bse.wf s.params.outCap → t.bse.wf s.params.outCap) := by
  rcases bseCommand_cases w s with ⟨i, rest, hi, he⟩ | ⟨why, -, he⟩
  · have hb := decodeBse_isBse hi
    have hexec := he.symm.trans h
    exact ⟨(exec_bseOnly hb s t hexec).1, fun hs => exec_keeps_bse_wf hb hs hexec⟩
  · cases he.symm.trans h
    rcases s.badCommand_cases (cmdOp w) with he | he <;> rw [he]
    · exact ⟨⟨rfl, rfl, rfl, rfl, rfl, rfl⟩, id⟩
    · exact ⟨⟨rfl, rfl, rfl, rfl, rfl, rfl⟩, id⟩

/-- Everything a step can be: the MCU's move or the host's next transaction, on the state with the move taken out of
the inbox. -/
theorem step_ends {s t : State} (h : step s = .next t) :
    ∃ rest, mcuMove { s with inbox := rest } = .next t
      ∨ ∃ op, s.inbox.head? = some (.host op) ∧ hostMove op { s with inbox := rest } = .next t := by
  rcases step_cases s with ⟨hbox, he⟩ | ⟨m, rest, hbox, he⟩ <;> rw [he] at h
  · exact ⟨[], .inl (by rw [← hbox]; exact h)⟩
  · cases m with
    | mcu => exact ⟨rest, .inl h⟩
    | host op => exact ⟨rest, .inr ⟨op, hbox ▸ rfl, h⟩⟩

/-- What the MCU fetches does not depend on the inbox. -/
theorem State.fetchBytes_inbox (s : State) (l : List Move) (n : Nat) (a : Word) :
    ({ s with inbox := l } : State).fetchBytes n a = s.fetchBytes n a := by
  induction n generalizing a with
  | zero => rfl
  | succ n ih =>
    have hbyte : ({ s with inbox := l } : State).fetchByte a = s.fetchByte a := rfl
    simp only [State.fetchBytes, hbyte, ih]

theorem State.fetchInstr_inbox (s : State) (l : List Move) :
    ({ s with inbox := l } : State).fetchInstr = s.fetchInstr := by
  have hbyte : ({ s with inbox := l } : State).fetchByte s.mcu.pc = s.fetchByte s.mcu.pc := rfl
  simp only [State.fetchInstr, State.fetchRest, hbyte, State.fetchBytes_inbox]

/-! ### The run state -/

theorem mcuMove_run {s t : State} (h : mcuMove s = .next t) :
    t.mcu.run = s.mcu.run
      ∨ (s.mcu.run = .running ∧ t.mcu.run = .halted ∧ s.fetchInstr = .instr .halt)
      ∨ (s.mcu.run = .running ∧ t.mcu.run = .faulted ∧ t.mcu.fault ≠ none) := by
  rcases mcuMove_cases s with ⟨-, he⟩ | ⟨hrun, ⟨i, hf, he⟩ | ⟨k, -, he⟩ | ⟨a, -, he⟩⟩ <;> rw [he] at h
  · cases h
    exact .inl rfl
  · cases hi : i.isBse with
    | true =>
      obtain ⟨-, -, hmcu, -⟩ := (exec_bseOnly hi s t h).1
      exact .inl (congrArg Mcu.run hmcu)
    | false =>
      cases exec_mcuEnds (congrArg not hi) h with
      | completes hc => exact .inl hc.runRegs.1
      | halts hhalt ht => exact .inr (.inl ⟨hrun, congrArg (·.mcu.run) ht, hhalt ▸ hf⟩)
      | faults k ht => exact .inr (.inr ⟨hrun, ht ▸ rfl, ht ▸ nofun⟩)
  · cases h
    exact .inr (.inr ⟨hrun, rfl, nofun⟩)
  · cases h

theorem hostMove_run {op : HostOp} {s t : State} (h : hostMove op s = .next t) :
    t.mcu.run = s.mcu.run ∨ (t.mcu.run = .stopped ∧ op = .reset)
      ∨ (s.mcu.run = .stopped ∧ t.mcu.run = .running ∧ op = .start) := by
  cases hostMove_ends h with
  | same h => exact .inl h.run
  | reset hop ht => exact .inr (.inl ⟨ht ▸ rfl, hop⟩)
  | loadProg _ _ _ _ _ ht => exact .inl ht.run
  | writeRam _ _ _ ht => exact .inl ht.run
  | writeReg _ _ _ _ ht => exact .inl ht.run
  | start hop hs ht => exact .inr (.inr ⟨hs, ht.run, hop⟩)
  | command w hw =>
    obtain ⟨⟨-, -, hmcu, -⟩, -⟩ := bseCommand_ends hw
    exact .inl (congrArg Mcu.run hmcu)

/-- Settles O33: the run state after the MCU's move, and after each host transaction. -/
theorem runStateTransitions : Obligations.RunStateTransitions := by
  intro s t h
  obtain ⟨rest, hm | ⟨op, hop, hh⟩⟩ := step_ends h
  · rcases mcuMove_run hm with hsame | ⟨hs, ht, hf⟩ | ⟨hs, ht, hfault⟩
    · exact .inl hsame
    · exact .inr (.inr (.inr (.inl ⟨hs, ht, s.fetchInstr_inbox rest ▸ hf⟩)))
    · exact .inr (.inr (.inr (.inr ⟨hs, ht, hfault⟩)))
  · rcases hostMove_run hh with hsame | ⟨ht, rfl⟩ | ⟨hs, ht, rfl⟩
    · exact .inl hsame
    · exact .inr (.inl ⟨ht, hop⟩)
    · exact .inr (.inr (.inl ⟨hs, ht, hop⟩))

/-! ### The program store and the parameters -/

theorem exec_keeps_prog {i : Instr} {s t : State} (h : exec i s = .next t) :
    t.params = s.params ∧ t.prog = s.prog := by
  cases hi : i.isBse with
  | true =>
    obtain ⟨hparams, hprog, -⟩ := (exec_bseOnly hi s t h).1
    exact ⟨hparams, hprog⟩
  | false =>
    obtain ⟨hparams, hprog, -⟩ := (exec_mcuOnly (congrArg not hi) s t h).1
    exact ⟨hparams, hprog⟩

theorem mcuMove_keeps_prog {s t : State} (h : mcuMove s = .next t) : t.params = s.params ∧ t.prog = s.prog := by
  rcases mcuMove_cases s with ⟨-, he⟩ | ⟨-, ⟨i, -, he⟩ | ⟨k, -, he⟩ | ⟨a, -, he⟩⟩ <;> rw [he] at h
  · cases h
    exact ⟨rfl, rfl⟩
  · exact exec_keeps_prog h
  · cases h
    exact ⟨rfl, rfl⟩
  · cases h

theorem hostMove_prog {op : HostOp} {s t : State} (h : hostMove op s = .next t) :
    t.params = s.params
      ∧ (t.prog = s.prog ∨ op = .reset
        ∨ ∃ a v, op = .loadProg a v ∧ s.mcu.run = .stopped ∧ a < s.params.progSize
          ∧ t.prog = Memory.put a v s.prog) := by
  cases hostMove_ends h with
  | same h => exact ⟨h.params, .inl h.prog⟩
  | reset hop ht => exact ⟨ht ▸ rfl, .inr (.inl hop)⟩
  | loadProg a v hop hs ha ht => exact ⟨ht.params, .inr (.inr ⟨a, v, hop, hs, ha, ht.prog⟩)⟩
  | writeRam _ _ _ ht => exact ⟨ht.params, .inl ht.prog⟩
  | writeReg _ _ _ _ ht => exact ⟨ht.params, .inl ht.prog⟩
  | start _ _ ht => exact ⟨ht.params, .inl ht.prog⟩
  | command w hw =>
    obtain ⟨⟨hparams, hprog, -⟩, -⟩ := bseCommand_ends hw
    exact ⟨hparams, .inl hprog⟩

/-- Settles O34: the MCU's move keeps the program store, and so does every host transaction but two. -/
theorem programStoreWrittenByHostOnly : Obligations.ProgramStoreWrittenByHostOnly := by
  intro s t h
  obtain ⟨rest, hm | ⟨op, hop, hh⟩⟩ := step_ends h
  · obtain ⟨hparams, hprog⟩ := mcuMove_keeps_prog hm
    exact ⟨hparams, .inl hprog⟩
  · obtain ⟨hparams, hprog | rfl | ⟨a, v, rfl, hs, ha, hprog⟩⟩ := hostMove_prog hh
    · exact ⟨hparams, .inl hprog⟩
    · exact ⟨hparams, .inr (.inl hop)⟩
    · exact ⟨hparams, .inr (.inr ⟨a, v, hop, hs, ha, fun b => hprog ▸ Memory.find_put a b v s.prog⟩)⟩

end Sys2Proof.Machine

/-! PROOF. The block's invariant (rules R30, R32, R33, R41, R42, R46, R137): it holds after reset, and every move of
either agent keeps it. -/

namespace Sys2Proof.Machine

/-! ### The fault registers -/

theorem Mcu.faultWf_iff {m : Mcu} (h : m.run ≠ .faulted) : m.faultWf ↔ m.fault = none ∧ m.fpc = 0x0000#16 := by
  simp [Mcu.faultWf, h]

theorem Mcu.faultWf_of_eq {m n : Mcu} (hm : m.run ≠ .faulted) (hn : n.run ≠ .faulted) (hfault : n.fault = m.fault)
    (hfpc : n.fpc = m.fpc) (h : m.faultWf) : n.faultWf := by
  rw [Mcu.faultWf_iff hn, hfault, hfpc]
  exact (Mcu.faultWf_iff hm).1 h

theorem State.faultWf_raise (s : State) (k : McuFault) : (s.raise k).mcu.faultWf :=
  ⟨iff_of_true rfl nofun, fun _ => rfl, fun h => absurd rfl h⟩

theorem McuEnds.faultWf {i : Instr} {s t : State} (h : McuEnds i s t) (hrun : s.mcu.run = .running)
    (hs : s.mcu.faultWf) : t.mcu.faultWf := by
  have hne : s.mcu.run ≠ .faulted := by rw [hrun]; nofun
  cases h with
  | completes h =>
    obtain ⟨hr, hfault, hfpc⟩ := h.runRegs
    exact Mcu.faultWf_of_eq hne (hr ▸ hne) hfault hfpc hs
  | halts _ ht => exact Mcu.faultWf_of_eq hne (ht ▸ nofun) (ht ▸ rfl) (ht ▸ rfl) hs
  | faults k ht => exact ht ▸ s.faultWf_raise k

/-! ### RAM and the stack -/

theorem McuEnds.ram_wf {i : Instr} {s t : State} (h : McuEnds i s t) (hs : Memory.wf s.mcu.ram) :
    Memory.wf t.mcu.ram := by
  cases h with
  | completes h => exact h.ram hs
  | halts _ ht => exact ht ▸ hs
  | faults k ht => exact ht ▸ hs

theorem McuEnds.sd_le {i : Instr} {s t : State} (h : McuEnds i s t) (hs : s.sd ≤ s.params.stackDepth) :
    t.sd ≤ s.params.stackDepth := by
  cases h with
  | completes h => exact h.depth hs
  | halts _ ht => exact ht ▸ hs
  | faults k ht => exact ht ▸ hs

/-! ### Reset -/

theorem blockInv_of_reset {s : State} (hparams : s.params.wf) (hprog : s.prog = []) (hmcu : s.mcu = Mcu.reset)
    (hbse : s.bse = Bse.reset) : BlockInv s := by
  refine ⟨hparams, hprog ▸ ⟨.nil, nofun⟩, hmcu ▸ ⟨.nil, nofun⟩, ?_, ?_, hbse ▸ Bse.wf_reset _⟩
  · rw [State.sd, hmcu]
    exact Nat.zero_le _
  · rw [hmcu, Mcu.faultWf_iff (by decide)]
    exact ⟨rfl, rfl⟩

/-- Settles O46: the parameters of `State.reset` are in range, and every other field has its reset value. -/
theorem resetMeetsInvariant : Obligations.ResetMeetsInvariant :=
  blockInv_of_reset (by decide) rfl rfl rfl

/-- Settles O57: every value is a field of the state that RESET leaves. -/
theorem hostResetValues : Obligations.HostResetValues := by
  intro s rest hbox
  have hstep : step s = .next ({ s with inbox := rest } : State).hostReset := by
    unfold step nextMove
    rw [hbox]
    rfl
  refine ⟨_, hstep, fun r => ?_, rfl, rfl, rfl, fun a => rfl, rfl, rfl, rfl, rfl, rfl, rfl, rfl, rfl, rfl⟩
  cases r <;> rfl

/-! ### The moves -/

/-- The invariant does not look at the host's side of the state. -/
theorem blockInv_of_sameBlock {s t : State} (h : SameBlock s t) (hs : BlockInv s) : BlockInv t := by
  obtain ⟨hparams, hprog, hmcu, hbse⟩ := h
  unfold BlockInv State.sd at *
  rwa [hparams, hprog, hmcu, hbse]

/-- A move of the MCU that keeps the MCU's part of the invariant. -/
theorem blockInv_of_sameOutsideMcu {s t : State} (h : SameOutsideMcu s t) (hs : BlockInv s)
    (hram : Memory.wf t.mcu.ram) (hsd : t.sd ≤ s.params.stackDepth) (hfault : t.mcu.faultWf) : BlockInv t := by
  obtain ⟨hparams, hprog, hbse, -⟩ := h
  obtain ⟨hp, hprogWf, -, -, -, hbseWf⟩ := hs
  unfold BlockInv
  rw [hparams, hprog, hbse]
  exact ⟨hp, hprogWf, hram, hsd, hfault, hbseWf⟩

theorem blockInv_of_sameOutsideBse {s t : State} (h : SameOutsideBse s t) (hs : BlockInv s)
    (hbse : t.bse.wf s.params.outCap) : BlockInv t := by
  obtain ⟨hparams, hprog, hmcu, -⟩ := h
  obtain ⟨hp, hprogWf, hram, hsd, hfault, -⟩ := hs
  unfold BlockInv State.sd
  rw [hparams, hprog, hmcu]
  exact ⟨hp, hprogWf, hram, hsd, hfault, hbse⟩

theorem exec_keeps_blockInv {i : Instr} {s t : State} (hrun : s.mcu.run = .running) (hs : BlockInv s)
    (h : exec i s = .next t) : BlockInv t := by
  have ⟨_, _, hram, hsd, hfault, hbse⟩ := hs
  cases hi : i.isBse with
  | true => exact blockInv_of_sameOutsideBse (exec_bseOnly hi s t h).1 hs (exec_keeps_bse_wf hi hbse h)
  | false =>
    have hmcu : i.isMcu = true := congrArg not hi
    have hends := exec_mcuEnds hmcu h
    exact blockInv_of_sameOutsideMcu (exec_mcuOnly hmcu s t h).1 hs (hends.ram_wf hram) (hends.sd_le hsd)
      (hends.faultWf hrun hfault)

theorem raise_keeps_blockInv {s : State} (hs : BlockInv s) (k : McuFault) : BlockInv (s.raise k) := by
  have ⟨_, _, hram, hsd, _, _⟩ := hs
  exact blockInv_of_sameOutsideMcu (s := s) ⟨rfl, rfl, rfl, rfl, rfl, rfl⟩ hs hram hsd (s.faultWf_raise k)

theorem mcuMove_keeps_blockInv {s t : State} (hs : BlockInv s) (h : mcuMove s = .next t) : BlockInv t := by
  rcases mcuMove_cases s with ⟨-, he⟩ | ⟨hrun, ⟨i, -, he⟩ | ⟨k, -, he⟩ | ⟨a, -, he⟩⟩ <;> rw [he] at h
  · cases h
    exact hs
  · exact exec_keeps_blockInv hrun hs h
  · cases h
    exact raise_keeps_blockInv hs k
  · cases h

/-- A write of MCU state by the host, in STOPPED. -/
theorem setMcu_keeps_blockInv {s : State} {m : Mcu} (hs : BlockInv s) (hstopped : s.mcu.run = .stopped)
    (hrun : m.run ≠ .faulted) (hfault : m.fault = s.mcu.fault) (hfpc : m.fpc = s.mcu.fpc)
    (hram : Memory.wf m.ram) (hstk : m.stk = s.mcu.stk) : BlockInv (s.setMcu m) := by
  have ⟨_, _, _, hsd, hfaultWf, _⟩ := hs
  refine blockInv_of_sameOutsideMcu (s := s) ⟨rfl, rfl, rfl, rfl, rfl, rfl⟩ hs hram ?_
    (Mcu.faultWf_of_eq (hstopped ▸ nofun) hrun hfault hfpc hfaultWf)
  exact (congrArg List.length hstk).trans_le hsd

theorem hostMove_keeps_blockInv {op : HostOp} {s t : State} (hs : BlockInv s) (h : hostMove op s = .next t) :
    BlockInv t := by
  have ⟨hparams, hprog, hram, hsd, hfault, hbse⟩ := hs
  cases hostMove_ends h with
  | same h => exact blockInv_of_sameBlock h hs
  | reset _ ht => exact ht ▸ blockInv_of_reset hparams rfl rfl rfl
  | loadProg a v _ _ ha ht =>
    exact blockInv_of_sameBlock ht ⟨hparams, Memory.wfBelow_put hprog ha v, hram, hsd, hfault, hbse⟩
  | writeRam a v hstop ht =>
    exact blockInv_of_sameBlock ht
      (setMcu_keeps_blockInv hs hstop (hstop ▸ nofun) rfl rfl (Memory.wf_write hram a v) rfl)
  | writeReg _ _ _ hstop ht =>
    exact blockInv_of_sameBlock ht (setMcu_keeps_blockInv hs hstop (hstop ▸ nofun) rfl rfl hram rfl)
  | start _ hstop ht => exact blockInv_of_sameBlock ht (setMcu_keeps_blockInv hs hstop nofun rfl rfl hram rfl)
  | command w hw =>
    obtain ⟨hframe, hwf⟩ := bseCommand_ends hw
    exact blockInv_of_sameOutsideBse hframe hs (hwf hbse)

/-- Settles O47: the MCU's move and every host transaction keep the invariant. -/
theorem stepKeepsInvariant : Obligations.StepKeepsInvariant := by
  intro s t hs h
  obtain ⟨rest, hm | ⟨op, -, hh⟩⟩ := step_ends h
  · exact mcuMove_keeps_blockInv (s := { s with inbox := rest }) hs hm
  · exact hostMove_keeps_blockInv (s := { s with inbox := rest }) hs hh

end Sys2Proof.Machine

/-! PROOF. The encoding: operand fields, the MCU's opcode map and the BSE's command words, read and written
(rules R91 to R95, R99 to R102, R110 to R112). -/

namespace Sys2Proof

/-! ### Operand numbers -/

@[simp] theorem Reg.ofNum_num (r : Reg) : Reg.ofNum r.num = r := by cases r <;> rfl

@[simp] theorem Pair.ofNum_num (p : Pair) : Pair.ofNum p.num = p := by cases p <;> rfl

@[simp] theorem Cond.ofNum_num (cc : Cond) : Cond.ofNum cc.num = cc := by cases cc <;> rfl

@[simp] theorem Reg.num_ofNum (f : BitVec 3) : (Reg.ofNum f).num = f := by revert f; decide

@[simp] theorem Pair.num_ofNum (f : BitVec 2) : (Pair.ofNum f).num = f := by revert f; decide

@[simp] theorem Cond.num_ofNum (f : BitVec 3) : (Cond.ofNum f).num = f := by revert f; decide

/-! ### Slices of a concatenation -/

/-- The middle one of three fields. -/
theorem extractLsb'_append_mid {l m n : Nat} (x : BitVec l) (y : BitVec m) (z : BitVec n) :
    (x ++ (y ++ z)).extractLsb' n m = y := by
  rw [BitVec.extractLsb'_append_eq_of_add_le (Nat.add_comm n m).le, BitVec.extractLsb'_append_eq_left]

/-- The lowest one of three fields. -/
theorem extractLsb'_append_last {l m n : Nat} (x : BitVec l) (y : BitVec m) (z : BitVec n) :
    (x ++ (y ++ z)).extractLsb' 0 n = z := by
  rw [BitVec.extractLsb'_append_eq_of_add_le (by omega), BitVec.extractLsb'_append_eq_right]

theorem append_toNat {m n : Nat} (x : BitVec m) (y : BitVec n) : (x ++ y).toNat = x.toNat * 2 ^ n + y.toNat := by
  rw [BitVec.toNat_append, Nat.shiftLeft_eq, Nat.mul_comm, ← Nat.two_pow_add_eq_or_of_lt y.isLt]

/-! ### Fields of a byte

Reading the fields of a byte that was put together gives the fields (`field_…`), and putting the fields of a byte
together gives the byte (`…_field`); the latter with the opcode field as the decoder's test leaves it. -/

@[simp] theorem field_byte233_top (o : BitVec 2) (a b : BitVec 3) : field (byte233 o a b) 6 2 = o :=
  BitVec.extractLsb'_append_eq_left

@[simp] theorem field_byte233_mid (o : BitVec 2) (a b : BitVec 3) : field (byte233 o a b) 3 3 = a :=
  extractLsb'_append_mid o a b

@[simp] theorem field_byte233_low (o : BitVec 2) (a b : BitVec 3) : field (byte233 o a b) 0 3 = b :=
  extractLsb'_append_last o a b

@[simp] theorem field_byte323_top (o : BitVec 3) (p : BitVec 2) (r : BitVec 3) : field (byte323 o p r) 5 3 = o :=
  BitVec.extractLsb'_append_eq_left

@[simp] theorem field_byte323_mid (o : BitVec 3) (p : BitVec 2) (r : BitVec 3) : field (byte323 o p r) 3 2 = p :=
  extractLsb'_append_mid o p r

@[simp] theorem field_byte323_low (o : BitVec 3) (p : BitVec 2) (r : BitVec 3) : field (byte323 o p r) 0 3 = r :=
  extractLsb'_append_last o p r

theorem field_append (b : Byte) (lo m n : Nat) : field b (lo + m) n ++ field b lo m = field b lo (n + m) :=
  BitVec.extractLsb'_append_extractLsb'_eq_extractLsb' rfl

theorem field_whole (b : Byte) : field b 0 8 = b := BitVec.extractLsb'_eq_self

theorem byte5_field {b : Byte} {o : BitVec 5} (h : field b 3 5 = o) : byte5 o (field b 0 3) = b := by
  subst h
  exact (field_append b 0 3 5).trans (field_whole b)

theorem byte6_field {b : Byte} {o : BitVec 6} (h : field b 2 6 = o) : byte6 o (field b 0 2) = b := by
  subst h
  exact (field_append b 0 2 6).trans (field_whole b)

theorem byte233_field {b : Byte} {o : BitVec 2} (h : field b 6 2 = o) :
    byte233 o (field b 3 3) (field b 0 3) = b := by
  subst h
  unfold byte233
  rw [field_append b 0 3 3]
  exact (field_append b 0 6 2).trans (field_whole b)

theorem byte323_field {b : Byte} {o : BitVec 3} (h : field b 5 3 = o) :
    byte323 o (field b 3 2) (field b 0 3) = b := by
  subst h
  unfold byte323
  rw [field_append b 0 3 2]
  exact (field_append b 0 5 3).trans (field_whole b)

theorem byte422_field {b : Byte} {o : BitVec 4} (h : field b 4 4 = o) :
    byte422 o (field b 2 2) (field b 0 2) = b := by
  subst h
  unfold byte422
  rw [field_append b 0 2 2]
  exact (field_append b 0 4 4).trans (field_whole b)

/-! ### What the MCU decoder answers, by the row of byte 0 -/

theorem decodeMcu_one {b0 : Byte} {i : Instr} (h : opcodeRow b0 = .one i) (rest : List Byte) :
    decodeMcu (b0 :: rest) = .instr i rest := by
  simp only [decodeMcu, h]

theorem decodeMcu_two {b0 b1 : Byte} {f : Byte → Option Instr} {i : Instr} (h : opcodeRow b0 = .two f)
    (hf : f b1 = some i) (rest : List Byte) : decodeMcu (b0 :: b1 :: rest) = .instr i rest := by
  simp only [decodeMcu, h, hf]

theorem decodeMcu_three {b0 : Byte} {f : Word → Instr} (h : opcodeRow b0 = .three f) (nn : Word) (rest : List Byte) :
    decodeMcu (b0 :: lowByte nn :: highByte nn :: rest) = .instr (f nn) rest := by
  simp only [decodeMcu, h, Machine.joinBytes_high_low]

/-- Everything the MCU decoder can accept: an instruction of one, two or three bytes (rule R91). -/
theorem decodeMcu_cases {bs rest : List Byte} {i : Instr} (h : decodeMcu bs = .instr i rest) :
    (∃ b0, bs = b0 :: rest ∧ opcodeRow b0 = .one i)
      ∨ (∃ b0 b1 f, bs = b0 :: b1 :: rest ∧ opcodeRow b0 = .two f ∧ f b1 = some i)
      ∨ ∃ b0 nn f, bs = b0 :: lowByte nn :: highByte nn :: rest ∧ opcodeRow b0 = .three f ∧ f nn = i := by
  unfold decodeMcu at h
  split at h
  · cases h
  next b0 bs =>
    split at h
    · cases h
    next hrow =>
      cases h
      exact .inl ⟨b0, rfl, hrow⟩
    next f hrow =>
      split at h
      · cases h
      next b1 tail =>
        split at h
        next hf =>
          cases h
          exact .inr (.inl ⟨b0, b1, f, rfl, hrow, hf⟩)
        · cases h
    next f hrow =>
      split at h
      · cases h
      · cases h
      next b1 b2 tail =>
        cases h
        exact .inr (.inr ⟨b0, joinBytes b2 b1, f, by simp, hrow, rfl⟩)

/-! ### The opcode map against the encoder -/

theorem subBitRes_bit (b : BitVec 3) (r : Reg) : subBitRes (byte233 0b00#2 b r.num) = some (.bit b r) := by
  simp [subBitRes]

theorem subBitRes_res (b : BitVec 3) (r : Reg) : subBitRes (byte233 0b01#2 b r.num) = some (.res b r) := by
  simp [subBitRes]

theorem subXchb_xchb (ra rb : Reg) : subXchb (byte233 0b00#2 ra.num rb.num) = some (.xchb ra rb) := by
  simp [subXchb]

theorem subLdRMem_ldRMem (rd : Reg) (wp : Pair) :
    subLdRMem (byte323 0b000#3 wp.num rd.num) = some (.ldRMem rd wp) := by
  simp [subLdRMem]

theorem subLdMemR_ldMemR (wp : Pair) (rs : Reg) :
    subLdMemR (byte323 0b000#3 wp.num rs.num) = some (.ldMemR wp rs) := by
  simp [subLdMemR]

/-- The encoder writes `b0` and the row's further bytes for each instruction that the row of `b0` gives. -/
def Row.Spells (b0 : Byte) : Row → Prop
  | .one i => encode i = .bytes [b0]
  | .two f => ∀ b1 i, f b1 = some i → encode i = .bytes [b0, b1]
  | .three f => ∀ nn, encode (f nn) = .bytes [b0, lowByte nn, highByte nn]
  | .illegal => True

theorem Row.spells_ite {b0 : Byte} {c : Prop} [Decidable c] {p q : Row} (hp : c → p.Spells b0) (hq : q.Spells b0) :
    (if c then p else q).Spells b0 := by
  split
  · exact hp ‹_›
  · exact hq

theorem subBitRes_spells : (Row.two subBitRes).Spells 0x06#8 := by
  intro b1 i h
  unfold subBitRes at h
  split_ifs at h with hbit hres
  · cases h
    simp [encode, byte233_field hbit]
  · cases h
    simp [encode, byte233_field hres]

theorem subXchb_spells : (Row.two subXchb).Spells 0x07#8 := by
  intro b1 i h
  unfold subXchb at h
  split_ifs at h with htop
  cases h
  simp [encode, byte233_field htop]

theorem subLdRMem_spells : (Row.two subLdRMem).Spells 0x2C#8 := by
  intro b1 i h
  unfold subLdRMem at h
  split_ifs at h with htop
  cases h
  simp [encode, byte323_field htop]

theorem subLdMemR_spells : (Row.two subLdMemR).Spells 0x2D#8 := by
  intro b1 i h
  unfold subLdMemR at h
  split_ifs at h with htop
  cases h
  simp [encode, byte323_field htop]

/-- The opcode map agrees with the encoder, row by row (rule R101). -/
theorem opcodeRow_spells (b0 : Byte) : (opcodeRow b0).Spells b0 := by
  unfold opcodeRow
  -- 0x00 to 0x07: no operand in byte 0
  iterate 4 refine Row.spells_ite (fun h => h ▸ rfl) ?_
  iterate 2 refine Row.spells_ite (fun h _ => h ▸ rfl) ?_
  refine Row.spells_ite (fun h => h ▸ subBitRes_spells) ?_
  refine Row.spells_ite (fun h => h ▸ subXchb_spells) ?_
  -- 0x08 to 0x2D: conditions, and the loads with an immediate or through a pair
  iterate 2 refine Row.spells_ite (fun h nn => by simp [encode, byte5_field h]) ?_
  refine Row.spells_ite (fun h => by simp [Row.Spells, encode, byte5_field h]) ?_
  refine Row.spells_ite (fun h b1 i hi => by cases hi; simp [encode, byte5_field h]) ?_
  refine Row.spells_ite (fun h nn => by simp [encode, byte6_field h]) ?_
  refine Row.spells_ite (fun h => h ▸ subLdRMem_spells) ?_
  refine Row.spells_ite (fun h => h ▸ subLdMemR_spells) ?_
  -- 0x30 to 0x9F: one or two registers
  iterate 2 refine Row.spells_ite (fun h => by simp [Row.Spells, encode, byte5_field h]) ?_
  refine Row.spells_ite (fun h => by simp [Row.Spells, encode, byte233_field h]) ?_
  iterate 4 refine Row.spells_ite (fun h => by simp [Row.Spells, encode, byte5_field h]) ?_
  -- 0xA0 to 0xB3: one pair
  iterate 5 refine Row.spells_ite (fun h => by simp [Row.Spells, encode, byte6_field h]) ?_
  -- 0xB8 to 0xBB: the block copies
  iterate 4 refine Row.spells_ite (fun h => h ▸ rfl) ?_
  -- 0xC0 to 0xFF: two pairs
  iterate 4 refine Row.spells_ite (fun h => by simp [Row.Spells, encode, byte422_field h]) ?_
  trivial

/-! ### Command words -/

@[simp] theorem cmdOp_cmdWord (op n : BitVec 4) (d : Byte) : cmdOp (cmdWord op n d) = op :=
  BitVec.extractLsb'_append_eq_left

@[simp] theorem cmdCount_cmdWord (op n : BitVec 4) (d : Byte) : cmdCount (cmdWord op n d) = n :=
  extractLsb'_append_mid op n d

@[simp] theorem cmdData_cmdWord (op n : BitVec 4) (d : Byte) : cmdData (cmdWord op n d) = d :=
  extractLsb'_append_last op n d

/-- A command word is its three fields (rule R110). -/
theorem exists_cmdWord (w : Word) : ∃ op n d, w = cmdWord op n d := by
  refine ⟨cmdOp w, cmdCount w, cmdData w, ?_⟩
  have hlow : cmdCount w ++ cmdData w = w.extractLsb' 0 12 :=
    BitVec.extractLsb'_append_extractLsb'_eq_extractLsb' rfl
  have hword : cmdOp w ++ w.extractLsb' 0 12 = w.extractLsb' 0 16 :=
    BitVec.extractLsb'_append_extractLsb'_eq_extractLsb' rfl
  unfold cmdWord
  rw [hlow, hword, BitVec.extractLsb'_eq_self]

/-- The data field of `PUTBIT` (rule R111). -/
theorem putbit_data {d : Byte} (h : d.extractLsb' 1 7 = 0#7) :
    (if d.getLsbD 0 then 0x01#8 else 0x00#8) = d := by
  revert d; decide

/-! ### The two directions -/

/-- An MCU instruction's bytes decode to it (rules R91, R95, R101): byte 0 selects the row, which the operand in
byte 0, where there is one, completes; byte 1 and the 16-bit operand are read back field by field. -/
theorem decode_encode_mcu {i : Instr} (hi : i.isMcu = true) : decode (encode i) = .instr i [] := by
  cases i with
  | nop | halt | err | ret | bci | bcd | bcir | bcdr => rfl
  | jp nn => exact decodeMcu_three (b0 := 0x04#8) rfl nn []
  | call nn => exact decodeMcu_three (b0 := 0x05#8) rfl nn []
  | jpCc cc nn | callCc cc nn => exact decodeMcu_three (by cases cc <;> rfl) nn []
  | retCc cc => exact decodeMcu_one (by cases cc <;> rfl) []
  | bit b r => exact decodeMcu_two (b0 := 0x06#8) rfl (subBitRes_bit b r) []
  | res b r => exact decodeMcu_two (b0 := 0x06#8) rfl (subBitRes_res b r) []
  | xchb ra rb => exact decodeMcu_two (b0 := 0x07#8) rfl (subXchb_xchb ra rb) []
  | ldRN rd n => exact decodeMcu_two (f := fun n => some (.ldRN rd n)) (by cases rd <;> rfl) rfl []
  | ldWNN wp nn => exact decodeMcu_three (by cases wp <;> rfl) nn []
  | ldRMem rd wp => exact decodeMcu_two (b0 := 0x2C#8) rfl (subLdRMem_ldRMem rd wp) []
  | ldMemR wp rs => exact decodeMcu_two (b0 := 0x2D#8) rfl (subLdMemR_ldMemR wp rs) []
  | inc r | dec r | rl r | rr r | shl r | shr r => exact decodeMcu_one (by cases r <;> rfl) []
  | ldRR rd rs => exact decodeMcu_one (by cases rd <;> cases rs <;> rfl) []
  | incw wp | decw wp | push wp | pop wp | xts wp => exact decodeMcu_one (by cases wp <;> rfl) []
  | addw p q | adcw p q | sbcw p q | xchw p q => exact decodeMcu_one (by cases p <;> cases q <;> rfl) []
  | bsinit | putbit | putbits | putbyte | flush => cases hi

/-- A BSE command's word decodes to it, whatever the count of `PUTBITS` (rule R111, log 10). -/
theorem decode_encode_bse {i : Instr} (hi : i.isBse = true) : decode (encode i) = .instr i [] := by
  cases i with
  | bsinit | flush => rfl
  | putbit b => cases b <;> rfl
  | putbits n v => simp [encode, decode, decodeBse]
  | putbyte v => simp [encode, decode, decodeBse]
  | _ => cases hi

theorem decode_encode (i : Instr) : decode (encode i) = .instr i [] := by
  cases h : i.isBse with
  | true => exact decode_encode_bse h
  | false => exact decode_encode_mcu (congrArg not h)

/-- The bytes that the MCU decoder accepts are the encoding of its answer and what it leaves. -/
theorem encode_of_decodeMcu {bs rest : List Byte} {i : Instr} (h : decodeMcu bs = .instr i rest) :
    ∃ pre, encode i = .bytes pre ∧ bs = pre ++ rest := by
  rcases decodeMcu_cases h with ⟨b0, rfl, hrow⟩ | ⟨b0, b1, f, rfl, hrow, hf⟩ | ⟨b0, nn, f, rfl, hrow, rfl⟩ <;>
    have hspells := hrow ▸ opcodeRow_spells b0
  · exact ⟨_, hspells, rfl⟩
  · exact ⟨_, hspells b1 i hf, rfl⟩
  · exact ⟨_, hspells nn, rfl⟩

/-- The word that the BSE decoder accepts is the encoding of its answer. -/
theorem encode_of_decodeBse {w : Word} {i : Instr} {rest : List Byte} (h : decodeBse w = .instr i rest) :
    encode i = .command w ∧ rest = [] := by
  obtain ⟨op, n, d, rfl⟩ := exists_cmdWord w
  simp only [decodeBse, cmdOp_cmdWord, cmdCount_cmdWord, cmdData_cmdWord] at h
  split_ifs at h with hinit hbit hbits hbyte hflush <;> cases h
  · obtain ⟨rfl, rfl, rfl⟩ := hinit
    exact ⟨rfl, rfl⟩
  · obtain ⟨rfl, rfl, hdata⟩ := hbit
    exact ⟨by rw [encode, putbit_data hdata], rfl⟩
  · subst hbits
    exact ⟨rfl, rfl⟩
  · obtain ⟨rfl, rfl⟩ := hbyte
    exact ⟨rfl, rfl⟩
  · obtain ⟨rfl, rfl, rfl⟩ := hflush
    exact ⟨rfl, rfl⟩

/-- Settles O41: the round trip holds with any count of `PUTBITS`, so that `wf` is not needed (log 10). -/
theorem decodeEncode : Obligations.DecodeEncode := fun i _ => decode_encode i

/-- Settles O42, one decoder after the other. -/
theorem encodeDecode : Obligations.EncodeDecode :=
  ⟨fun _ _ _ => encode_of_decodeMcu, fun _ _ _ => encode_of_decodeBse⟩

end Sys2Proof

/-! PROOF. The condition codes (rule R99), the illegal values of byte 0 (rule R102), and the illegal command words
(rule R112). -/

namespace Sys2Proof.Machine

/-- Settles O25: each code's own test, and the names. -/
theorem conditionTable : Obligations.ConditionTable := by
  rintro ⟨c, z, s, pv⟩
  exact ⟨iff_of_eq (Bool.not_eq_true' z), .rfl, iff_of_eq (Bool.not_eq_true' c), .rfl,
    iff_of_eq (Bool.not_eq_true' pv), .rfl, iff_of_eq (Bool.not_eq_true' s), .rfl, rfl, rfl⟩

/-- Settles O40. Byte 0 has 256 values, and `mcuLength` looks at nothing else. -/
theorem tenIllegalFirstBytes : Obligations.TenIllegalFirstBytes := by
  unfold Obligations.TenIllegalFirstBytes
  decide

/-! ### Illegal command words -/

theorem cmdWord_toNat (op n : BitVec 4) (d : Byte) :
    (cmdWord op n d).toNat = op.toNat * 4096 + (n.toNat * 256 + d.toNat) := by
  unfold cmdWord
  rw [append_toNat, append_toNat]
  rfl

theorem illegalWord_cmdWord (op n : BitVec 4) (d : Byte) :
    illegalWord (cmdWord op n d) ↔ illegalFields op.toNat n.toNat d.toNat := by
  have hn := n.isLt
  have hd := d.isLt
  have hop : (cmdWord op n d).toNat / 4096 = op.toNat := by rw [cmdWord_toNat]; omega
  have hcount : (cmdWord op n d).toNat / 256 % 16 = n.toNat := by rw [cmdWord_toNat]; omega
  have hdata : (cmdWord op n d).toNat % 256 = d.toNat := by rw [cmdWord_toNat]; omega
  unfold illegalWord
  rw [hop, hcount, hdata]

theorem wf_putbits_eq_false_iff (n : BitVec 4) (v : Byte) :
    (Instr.putbits n v).wf = false ↔ n.toNat = 0 ∨ 8 < n.toNat := by
  rw [Instr.wf, putbitsCountOk, ← Bool.decide_and, decide_eq_false_iff_not]
  omega

/-- The encodings of commands are legal words but for the counts of `PUTBITS` that `wf` excludes. -/
theorem illegalWord_of_encode {i : Instr} {w : Word} (h : encode i = .command w) :
    illegalWord w ↔ i.wf = false := by
  cases i with
  | bsinit | flush => cases h; decide
  | putbit b => cases h; revert b; decide
  | putbits n v =>
    cases h
    rw [illegalWord_cmdWord, wf_putbits_eq_false_iff]
    simp [illegalFields]
  | putbyte v =>
    cases h
    rw [illegalWord_cmdWord]
    simp [illegalFields, Instr.wf]
  | _ => cases h

theorem illegalWord_of_reject {w : Word} {why : Reject} (h : decodeBse w = .reject why) : illegalWord w := by
  obtain ⟨op, n, d, rfl⟩ := exists_cmdWord w
  rw [illegalWord_cmdWord]
  simp only [decodeBse, cmdOp_cmdWord, cmdCount_cmdWord, cmdData_cmdWord] at h
  split_ifs at h with hinit hbit hbits hbyte hflush
  simp only [← BitVec.toNat_inj, BitVec.extractLsb'_toNat, BitVec.toNat_ofNat] at hinit hbit hbits hbyte hflush
  have := d.isLt
  unfold illegalFields
  omega

/-- A legal command, while no fault is set, raises at most `OutputFull` (rules R130 to R135). -/
theorem exec_bfault_of_wf {i : Instr} (hi : i.isBse = true) (hwf : i.wf = true) {s : State}
    (hs : s.bse.bfault = none) : ∃ t, exec i s = .next t ∧ t.bse.bfault ≠ some .badCommand := by
  have hkept {e : Bse} (he : e.bfault = s.bse.bfault) : (s.setBse e).bse.bfault ≠ some .badCommand :=
    (he.trans hs) ▸ nofun
  have hfull : (s.raiseBse .outputFull).bse.bfault ≠ some .badCommand := nofun
  cases i with
  | bsinit => exact ⟨_, rfl, nofun⟩
  | putbit b =>
    rcases execPutbit_cases hs b with ⟨-, -, he⟩ | ⟨-, he⟩
    · exact ⟨_, he, hfull⟩
    · exact ⟨_, he, hkept (s.bse.putBit_bfault b)⟩
  | putbits n v =>
    rcases execPutbits_cases hs n v with ⟨hn, -⟩ | ⟨-, -, -, -, he⟩ | ⟨-, -, -, he⟩
    · exact absurd hwf (ne_true_of_eq_false ((wf_putbits_eq_false_iff n v).mpr hn))
    · exact ⟨_, he, hfull⟩
    · exact ⟨_, he, hkept (Bse.putBits_bfault n.toNat v s.bse)⟩
  | putbyte v =>
    rcases execPutbyte_cases hs v with ⟨-, he⟩ | ⟨-, he⟩
    · exact ⟨_, he, hfull⟩
    · exact ⟨_, he, hkept rfl⟩
  | flush =>
    refine ⟨_, execFlush_none hs, hkept ?_⟩
    rcases s.bse.flush_cases with ⟨-, he⟩ | ⟨-, he⟩ <;> rw [he]
  | _ => cases hi

/-- The one command that is not well-formed is `PUTBITS` with a bad count, and it raises `BadCommand` (log 10). -/
theorem exec_of_not_wf {i : Instr} (hwf : i.wf = false) {s : State} (hs : s.bse.bfault = none) :
    exec i s = .next (s.raiseBse .badCommand) := by
  cases i with
  | putbits n v =>
    rw [wf_putbits_eq_false_iff] at hwf
    rcases execPutbits_cases hs n v with ⟨-, he⟩ | ⟨h1, h8, -⟩ | ⟨h1, h8, -⟩
    · exact he
    · omega
    · omega
  | _ => cases hwf

/-- Settles O54: a word is illegal when it decodes to no command or to one that is not well-formed. -/
theorem illegalWordsAreBadCommands : Obligations.IllegalWordsAreBadCommands := by
  intro s w hs
  rcases bseCommand_cases w s with ⟨i, rest, hdec, he⟩ | ⟨why, hdec, he⟩ <;> rw [he]
  · have hillegal := illegalWord_of_encode (encode_of_decodeBse hdec).1
    constructor
    · exact fun h => ⟨_, exec_of_not_wf (hillegal.mp h) hs, rfl⟩
    · intro h
      rw [hillegal, Bool.not_eq_false] at h
      exact exec_bfault_of_wf (decodeBse_isBse hdec) h hs
  · refine ⟨fun _ => ⟨_, rfl, ?_⟩, fun h => absurd (illegalWord_of_reject hdec) h⟩
    rw [State.badCommand, if_pos (.inl hs)]
    rfl

end Sys2Proof.Machine

/-! PROOF. A running MCU's step runs the instruction that stands at `pc` (rules R103, R272). -/

namespace Sys2Proof.Machine

/-- The bytes `bs` stand in the program store from `a` on, addresses modulo 2^16 and below `PROG_SIZE`. -/
def State.Holds (s : State) (a : Word) (bs : List Byte) : Prop :=
  ∀ k, (h : k < bs.length) → (a + BitVec.ofNat 16 k).toNat < s.params.progSize
    ∧ Memory.find (a + BitVec.ofNat 16 k).toNat s.prog = some bs[k]

/-- The first byte can be fetched, and the others stand from the next address on. -/
theorem State.Holds.cons {s : State} {a : Word} {b : Byte} {bs : List Byte} (h : s.Holds a (b :: bs)) :
    s.fetchByte a = .byte b ∧ s.Holds (a + 1#16) bs := by
  constructor
  · obtain ⟨hlt, hfind⟩ := h 0 (Nat.succ_pos _)
    rw [BitVec.add_zero] at hlt hfind
    rw [State.fetchByte, if_neg (Nat.not_le.mpr hlt), hfind]
    rfl
  · intro k hk
    have hnext : a + 1#16 + BitVec.ofNat 16 k = a + BitVec.ofNat 16 (k + 1) := by
      rw [BitVec.add_assoc, ← BitVec.ofNat_add, Nat.add_comm 1 k]
    rw [hnext]
    exact h (k + 1) (Nat.succ_lt_succ hk)

theorem State.fetchBytes_of_holds {s : State} {a : Word} {bs : List Byte} (h : s.Holds a bs) :
    s.fetchBytes bs.length a = .bytes bs := by
  induction bs generalizing a with
  | nil => rfl
  | cons b bs ih =>
    obtain ⟨hbyte, hrest⟩ := h.cons
    simp only [List.length_cons, State.fetchBytes, hbyte, ih hrest]

theorem mcuLength_of_decodeMcu {bs : List Byte} {i : Instr} (h : decodeMcu bs = .instr i []) :
    ∃ b0 tail, bs = b0 :: tail ∧ mcuLength b0 = some (tail.length + 1) := by
  rcases decodeMcu_cases h with ⟨b0, rfl, hrow⟩ | ⟨b0, b1, f, rfl, hrow, -⟩ | ⟨b0, nn, f, rfl, hrow, -⟩ <;>
    exact ⟨b0, _, rfl, by simp only [mcuLength, hrow]; rfl⟩

/-- The fetch takes as many bytes as the decoder reads (rule R103). -/
theorem State.fetchInstr_of_holds {s : State} {bs : List Byte} {i : Instr} (h : s.Holds s.mcu.pc bs)
    (hdec : decodeMcu bs = .instr i []) : s.fetchInstr = .instr i := by
  obtain ⟨b0, tail, rfl, hlen⟩ := mcuLength_of_decodeMcu hdec
  obtain ⟨hbyte, htail⟩ := h.cons
  simp only [State.fetchInstr, hbyte, hlen, State.fetchRest, Nat.add_sub_cancel, State.fetchBytes_of_holds htail,
    decodeFetched, hdec]

theorem mcuMove_of_fetchInstr {s : State} {i : Instr} (hrun : s.mcu.run = .running) (hf : s.fetchInstr = .instr i) :
    mcuMove s = exec i s := by
  simp only [mcuMove, hrun, mcuCycle, hf]

/-- Settles O44: the bytes at `pc` are fetched and decoded alike with the inbox as it is and with the turn taken out. -/
theorem stepRunsInstruction : Obligations.StepRunsInstruction := by
  intro s bs i hrun hdec hloaded
  have hfetch : s.fetchInstr = .instr i := State.fetchInstr_of_holds hloaded hdec
  constructor
  · intro hbox
    have hstep : step s = mcuMove s := by simp only [step, nextMove, hbox]
    exact hstep.trans (mcuMove_of_fetchInstr hrun hfetch)
  · intro rest hbox
    have hstep : step s = mcuMove { s with inbox := rest } := by simp only [step, nextMove, hbox, makeMove]
    exact hstep.trans (mcuMove_of_fetchInstr hrun ((s.fetchInstr_inbox rest).trans hfetch))

end Sys2Proof.Machine

/-! PROOF. The BSE's commands one by one (rules R130 to R135). -/

namespace Sys2Proof.Machine

theorem sameOutsideBse_setBse (s : State) (e : Bse) : SameOutsideBse s (s.setBse e) :=
  ⟨rfl, rfl, rfl, rfl, rfl, rfl⟩

/-! ### One bit -/

/-- The eighth bit of a byte writes it to its position. -/
theorem Bse.putBit_eighth {e : Bse} (h : e.cnt = 7#3) (b : Bool) :
    e.putBit b = { e with out := Memory.put e.slot (putBitAt e.acc 0 b) e.out, acc := 0x00#8, cnt := 0#3 } := by
  have hclaim : e.claim = e := e.claim_cases.elim (fun hz => absurd (h.symm.trans hz.1) (by decide)) (·.2)
  rw [Bse.putBit, hclaim]
  exact (e.accept_cases b).elim (·.2) fun hc => absurd h hc.1

/-- Any other bit only goes into `ACC`. -/
theorem Bse.putBit_pending {e : Bse} (h : e.cnt ≠ 7#3) (b : Bool) :
    (e.putBit b).acc = putBitAt e.acc (7 - e.cnt.toNat) b ∧ (e.putBit b).out = e.out := by
  rcases e.claim.accept_cases b with ⟨hc, -⟩ | ⟨-, he⟩
  · exact absurd (e.claim_cnt ▸ hc) h
  · simp [Bse.putBit, he]

theorem Bse.putBit_cnt_toNat (e : Bse) (b : Bool) : (e.putBit b).cnt.toNat = (e.cnt.toNat + 1) % 8 := by
  rw [Bse.putBit_cnt, BitVec.toNat_add]
  rfl

/-- Settles O48: the registers of a bit sent, and where the byte goes by whether it is the eighth. -/
theorem putBitCommand : Obligations.PutBitCommand := by
  intro s b hs
  rcases execPutbit_cases hs b with ⟨hz, hfull, he⟩ | ⟨hroom, he⟩
  · exact ⟨fun _ _ => ⟨_, he, rfl⟩, fun h => absurd ⟨hz, hfull⟩ h⟩
  · refine ⟨fun hz hfull => absurd ⟨hz, hfull⟩ hroom, fun _ => ?_⟩
    refine ⟨_, putBitAt s.bse.acc (7 - s.bse.cnt.toNat) b, he, sameOutsideBse_setBse s _,
      (s.bse.putBit_bfault b).trans hs, s.bse.putBit_slot b, s.bse.putBit_wp b, s.bse.putBit_cnt_toNat b,
      fun i _ => getLsbD_putBitAt _ (by omega) b i, ?_⟩
    split
    · next h7 =>
      rw [State.setBse_bse, Bse.putBit_eighth h7, h7]
      exact ⟨rfl, Memory.find_put_same _ _ _, fun j hj => Memory.find_put_other hj _ _⟩
    · next h7 => exact Bse.putBit_pending h7 b

/-! ### `BSINIT`, `PUTBYTE` and `FLUSH` -/

/-- Settles O52: `BSINIT` does not look at the state it resets. -/
theorem bsinitResetsEncoder : Obligations.BsinitResetsEncoder := fun s =>
  ⟨_, rfl, sameOutsideBse_setBse s s.bse.init, rfl, rfl, rfl, rfl, rfl, rfl⟩

/-- Settles O51: the two ways a `PUTBYTE` can end. -/
theorem putByteAppends : Obligations.PutByteAppends := by
  intro s v hs
  rcases execPutbyte_cases hs v with ⟨hfull, he⟩ | ⟨hroom, he⟩
  · exact ⟨fun _ => ⟨_, he, rfl⟩, fun h => absurd hfull h⟩
  · exact ⟨fun h => absurd h hroom, fun _ => ⟨_, he, sameOutsideBse_setBse s _, hs, rfl,
      Memory.find_put_same _ _ _, fun j hj => Memory.find_put_other hj _ _, rfl, rfl, rfl⟩⟩

@[simp] theorem Bse.flush_wp (e : Bse) : e.flush.wp = e.wp := by
  rcases e.flush_cases with ⟨-, h⟩ | ⟨-, h⟩ <;> rw [h]

@[simp] theorem Bse.flush_slot (e : Bse) : e.flush.slot = e.slot := by
  rcases e.flush_cases with ⟨-, h⟩ | ⟨-, h⟩ <;> rw [h]

@[simp] theorem Bse.flush_bfault (e : Bse) : e.flush.bfault = e.bfault := by
  rcases e.flush_cases with ⟨-, h⟩ | ⟨-, h⟩ <;> rw [h]

@[simp] theorem Bse.flush_cnt (e : Bse) : e.flush.cnt = 0#3 := by
  rcases e.flush_cases with ⟨hc, h⟩ | ⟨-, h⟩ <;> rw [h]
  exact hc

theorem Bse.flush_of_cnt_zero {e : Bse} (h : e.cnt = 0#3) : e.flush = e :=
  e.flush_cases.elim (·.2) fun hc => absurd h hc.1

theorem Bse.flush_of_cnt_ne {e : Bse} (h : e.cnt ≠ 0#3) :
    e.flush = { e with out := Memory.put e.slot e.acc e.out, acc := 0x00#8, cnt := 0#3 } :=
  e.flush_cases.elim (fun hc => absurd hc.1 h) (·.2)

theorem Bse.flush_flush (e : Bse) : e.flush.flush = e.flush :=
  Bse.flush_of_cnt_zero e.flush_cnt

/-- Settles O50: by whether a byte is pending, and once more after the flush, when none is. -/
theorem flushWritesPendingByte : Obligations.FlushWritesPendingByte := by
  intro s hs
  have hagain : exec .flush (s.setBse s.bse.flush) = .next (s.setBse s.bse.flush) := by
    have he := execFlush_none (s := s.setBse s.bse.flush) (s.bse.flush_bfault.trans hs)
    rw [State.setBse_bse, Bse.flush_flush] at he
    exact he
  refine ⟨_, execFlush_none hs, sameOutsideBse_setBse s _, s.bse.flush_bfault.trans hs, s.bse.flush_wp,
    s.bse.flush_slot, s.bse.flush_cnt, fun hc => ?_, fun hc => ?_, hagain⟩
  · rw [Bse.flush_of_cnt_zero hc]
    rfl
  · rw [State.setBse_bse, Bse.flush_of_cnt_ne hc]
    exact ⟨rfl, Memory.find_put_same _ _ _, fun j hj => Memory.find_put_other hj _ _⟩

end Sys2Proof.Machine

/-! PROOF. Commands in sequence (rules R131 to R133): a list of `PUTBIT`s and `PUTBITS`s that finds its output
positions sends its bits one after another.

`Bse.sendBits` is that sequence on the encoder alone, `Bse.Fits` the room it needs. -/

namespace Sys2Proof.Machine

/-! ### Lists of instructions -/

theorem execAll_cons_eq_next {i : Instr} {is : List Instr} {s u : State} :
    execAll (i :: is) s = .next u ↔ ∃ t, exec i s = .next t ∧ execAll is t = .next u := by
  cases h : exec i s <;> simp [execAll, h]

theorem execAll_singleton (i : Instr) (s : State) : execAll [i] s = exec i s := by
  cases h : exec i s <;> simp [execAll, h]

theorem execAll_append_eq_next {is js : List Instr} {s u : State} :
    execAll (is ++ js) s = .next u ↔ ∃ t, execAll is s = .next t ∧ execAll js t = .next u := by
  induction is generalizing s with
  | nil => simp [execAll]
  | cons i is ih =>
    simp only [List.cons_append, execAll_cons_eq_next, ih]
    exact ⟨fun ⟨m, hm, t, ht, hu⟩ => ⟨t, ⟨m, hm, ht⟩, hu⟩, fun ⟨t, ⟨m, hm, ht⟩, hu⟩ => ⟨m, hm, t, ht, hu⟩⟩

/-- A sequence of commands with a `BSINIT` before it and a `FLUSH` after it, as R136 has it. -/
theorem execAll_bsinit_flush_eq_next {cmds : List Instr} {s t : State} :
    execAll (.bsinit :: cmds ++ [.flush]) s = .next t
      ↔ ∃ u, execAll cmds (s.setBse s.bse.init) = .next u ∧ exec .flush u = .next t := by
  simp only [List.cons_append, execAll_cons_eq_next, execAll_append_eq_next, execAll_singleton]
  exact ⟨fun ⟨_, hinit, h⟩ => by cases hinit; exact h, fun h => ⟨_, rfl, h⟩⟩

/-! ### Bits in sequence -/

/-- The bits sent one after another (rule R133). -/
def Bse.sendBits (bs : List Bool) (e : Bse) : Bse := bs.foldl Bse.putBit e

@[simp] theorem Bse.sendBits_nil (e : Bse) : e.sendBits [] = e := rfl

@[simp] theorem Bse.sendBits_cons (b : Bool) (bs : List Bool) (e : Bse) :
    e.sendBits (b :: bs) = (e.putBit b).sendBits bs := rfl

theorem Bse.sendBits_append (bs cs : List Bool) (e : Bse) : e.sendBits (bs ++ cs) = (e.sendBits bs).sendBits cs :=
  List.foldl_append

@[simp] theorem Bse.sendBits_bfault (bs : List Bool) (e : Bse) : (e.sendBits bs).bfault = e.bfault := by
  induction bs generalizing e with
  | nil => rfl
  | cons b bs ih => rw [Bse.sendBits_cons, ih, Bse.putBit_bfault]

/-- `PUTBITS` sends the bits that `sentBits` lists. -/
theorem Bse.putBits_eq_sendBits (n : Nat) (v : Byte) (e : Bse) :
    Bse.putBits n v e = e.sendBits ((List.range n).reverse.map fun i => v.getLsbD i) := by
  induction n generalizing e with
  | zero => rfl
  | succ n ih => simp [List.range_succ, ih]

/-! ### Room -/

/-- `n` bits sent one after another raise no fault: `WP` is past `OUT_CAP`, which no run reaches, or the bits find
their positions. -/
def Bse.Fits (outCap n : Nat) (e : Bse) : Prop := outCap < e.wp ∨ n ≤ e.space outCap

/-- The check of `PUTBITS` before its first bit (rule R133) is the check that all its bits fit. -/
theorem Bse.fits_iff {outCap n : Nat} {e : Bse} (h1 : 1 ≤ n) (h8 : n ≤ 8) :
    e.Fits outCap n ↔ ¬((e.cnt = 0#3 ∨ 8 < e.cnt.toNat + n) ∧ e.wp = outCap) := by
  have := e.cnt.isLt
  rw [Bse.Fits, Bse.space, cnt_eq_zero_iff]
  omega

/-- A bit sent leaves room for the bits after it. -/
theorem Bse.Fits.putBit {outCap n : Nat} {e : Bse} (h : e.Fits outCap (n + 1)) (b : Bool) :
    (e.putBit b).Fits outCap n := by
  rcases h with hwp | hroom
  · left
    rw [Bse.putBit_wp]
    split <;> omega
  · right
    have := Bse.space_putBit (Nat.lt_of_lt_of_le n.succ_pos hroom) b
    omega

theorem Bse.Fits.sendBits {outCap n : Nat} {bs : List Bool} {e : Bse} (h : e.Fits outCap (bs.length + n)) :
    (e.sendBits bs).Fits outCap n := by
  induction bs generalizing e with
  | nil => rwa [List.length_nil, Nat.zero_add] at h
  | cons b bs ih =>
    rw [List.length_cons, Nat.add_right_comm] at h
    exact ih (h.putBit b)

theorem Bse.Fits.mono {outCap m n : Nat} {e : Bse} (h : e.Fits outCap n) (hmn : m ≤ n) : e.Fits outCap m :=
  h.imp id hmn.trans

/-! ### Commands that send bits -/

theorem sentBits_putbits_length (n : BitVec 4) (v : Byte) : (sentBits (.putbits n v)).length = n.toNat := by
  simp [sentBits]

theorem exec_sendsBits {c : Instr} (hc : sendsBits c = true) {s : State} (hs : s.bse.bfault = none)
    (hfits : s.bse.Fits s.params.outCap (sentBits c).length) :
    exec c s = .next (s.setBse (s.bse.sendBits (sentBits c))) := by
  cases c with
  | putbit b =>
    rcases execPutbit_cases hs b with ⟨hz, hfull, -⟩ | ⟨-, he⟩
    · exact absurd ⟨.inl hz, hfull⟩ ((Bse.fits_iff (Nat.le_refl 1) (by decide)).mp hfits)
    · exact he
  | putbits n v =>
    rw [sentBits_putbits_length] at hfits
    rcases execPutbits_cases hs n v with ⟨hn, -⟩ | ⟨h1, h8, hslot, hfull, -⟩ | ⟨-, -, -, he⟩
    · exact absurd hc (ne_true_of_eq_false ((wf_putbits_eq_false_iff n v).mpr hn))
    · exact absurd ⟨hslot, hfull⟩ ((Bse.fits_iff h1 h8).mp hfits)
    · rw [Bse.putBits_eq_sendBits] at he
      exact he
  | _ => cases hc

theorem execAll_sendsBits {cmds : List Instr} (hcmds : ∀ c ∈ cmds, sendsBits c = true) {s : State}
    (hs : s.bse.bfault = none) (hfits : s.bse.Fits s.params.outCap (cmds.flatMap sentBits).length) :
    execAll cmds s = .next (s.setBse (s.bse.sendBits (cmds.flatMap sentBits))) := by
  induction cmds generalizing s with
  | nil => rfl
  | cons c cmds ih =>
    rw [List.flatMap_cons, List.length_append] at hfits
    rw [List.forall_mem_cons] at hcmds
    obtain ⟨hc, hrest⟩ := hcmds
    have hfirst := exec_sendsBits hc hs (hfits.mono (Nat.le_add_right _ _))
    refine execAll_cons_eq_next.mpr ⟨_, hfirst, ?_⟩
    rw [ih hrest ((Bse.sendBits_bfault _ _).trans hs) hfits.sendBits, List.flatMap_cons, Bse.sendBits_append]
    rfl

theorem execAll_putbits {bs : List Bool} {s : State} (hs : s.bse.bfault = none)
    (hfits : s.bse.Fits s.params.outCap bs.length) :
    execAll (bs.map .putbit) s = .next (s.setBse (s.bse.sendBits bs)) := by
  have hsent : (bs.map Instr.putbit).flatMap sentBits = bs := by simp [List.flatMap_map, sentBits]
  have hsend := execAll_sendsBits (cmds := bs.map .putbit) (List.forall_mem_map.mpr fun _ _ => rfl) hs (by rwa [hsent])
  rwa [hsent] at hsend

/-- Settles O49: `PUTBITS` and the `PUTBIT`s send the same bits, and its check is that they fit. -/
theorem putBitsIsPutBitSequence : Obligations.PutBitsIsPutBitSequence := by
  intro s n v hs
  rcases execPutbits_cases hs n v with ⟨hn, he⟩ | ⟨h1, h8, hslot, hfull, he⟩ | ⟨h1, h8, hroom, he⟩
  · exact ⟨fun _ => ⟨_, he, rfl⟩, by omega⟩
  · exact ⟨by omega, fun _ _ => ⟨fun _ => ⟨_, he, rfl⟩, fun h => absurd ⟨hslot, hfull⟩ h⟩⟩
  · have hfits : s.bse.Fits s.params.outCap (sentBits (.putbits n v)).length := by
      rw [sentBits_putbits_length]
      exact (Bse.fits_iff h1 h8).mpr hroom
    have hseq := execAll_putbits hs hfits
    rw [sentBits, List.map_map, ← Bse.putBits_eq_sendBits] at hseq
    exact ⟨by omega, fun _ _ => ⟨fun h => absurd h hroom, fun _ =>
      ⟨_, he, (Bse.putBits_bfault _ _ _).trans hs, sameOutsideBse_setBse s _, hseq⟩⟩⟩

end Sys2Proof.Machine

/-! PROOF. The bits sent since `BSINIT` stand in `OUT` and `ACC`, most significant first (rule R136 (a)). -/

namespace Sys2Proof.Machine

theorem getD_append_singleton (bs : List Bool) (b : Bool) (k : Nat) :
    (bs ++ [b]).getD k false = if k = bs.length then b else bs.getD k false := by
  rcases Nat.lt_trichotomy k bs.length with h | h | h
  · rw [List.getD_append _ _ _ _ h, if_neg (Nat.ne_of_lt h)]
  · simp [h]
  · have hpast : (bs ++ [b]).length ≤ k := by simpa using h
    rw [if_neg (Nat.ne_of_gt h), List.getD_eq_default _ _ (Nat.le_of_lt h), List.getD_eq_default _ _ hpast]

/-- `v` is the byte at position `j` of the bits `bs`, with zeros where they have ended. -/
def HoldsBits (bs : List Bool) (j : Nat) (v : Byte) : Prop :=
  ∀ i < 8, v.getLsbD (7 - i) = bs.getD (8 * j + i) false

/-- A byte past the end of the bits is zero. -/
theorem holdsBits_zero {bs : List Bool} {j : Nat} (h : bs.length ≤ 8 * j) : HoldsBits bs j 0x00#8 := by
  intro i _
  rw [List.getD_eq_default _ _ (Nat.le_add_right_of_le h), BitVec.getLsbD_zero]

/-- A further bit leaves the full bytes before it. -/
theorem HoldsBits.append {bs : List Bool} {j : Nat} {v : Byte} (h : HoldsBits bs j v) (hj : j < bs.length / 8)
    (b : Bool) : HoldsBits (bs ++ [b]) j v := by
  intro i hi
  rw [getD_append_singleton, if_neg (by omega)]
  exact h i hi

/-- A further bit lands in the byte under construction, behind the bits there (rule R131). -/
theorem HoldsBits.putBitAt {bs : List Bool} {v : Byte} (h : HoldsBits bs (bs.length / 8) v) (b : Bool) :
    HoldsBits (bs ++ [b]) (bs.length / 8) (putBitAt v (7 - bs.length % 8) b) := by
  intro i hi
  rw [getLsbD_putBitAt _ (by omega), getD_append_singleton, h i hi]
  exact if_congr (by omega) rfl rfl

/-- The first `q` positions hold the first `q` bytes of the bits `bs`. -/
def Memory.HoldsBytes (bs : List Bool) (q : Nat) (m : Memory) : Prop :=
  ∀ j < q, ∃ v, Memory.find j m = some v ∧ HoldsBits bs j v

theorem Memory.HoldsBytes.append {bs : List Bool} {m : Memory} (h : Memory.HoldsBytes bs (bs.length / 8) m)
    (b : Bool) : Memory.HoldsBytes (bs ++ [b]) (bs.length / 8) m := fun j hj =>
  let ⟨v, hfind, hv⟩ := h j hj
  ⟨v, hfind, hv.append hj b⟩

/-- The next byte written to the position after the full ones. -/
theorem Memory.HoldsBytes.put {bs : List Bool} {q : Nat} {m : Memory} (h : Memory.HoldsBytes bs q m) {v : Byte}
    (hv : HoldsBits bs q v) : Memory.HoldsBytes bs (q + 1) (Memory.put q v m) := by
  intro j hj
  rw [Memory.find_put]
  split
  · next hjq => exact ⟨v, rfl, hjq ▸ hv⟩
  · next hjq => exact h j (by omega)

/-- The encoder holds exactly the bits `bs` sent since `BSINIT`: the full bytes in `OUT`, the rest in `ACC`. -/
structure Bse.Packed (bs : List Bool) (e : Bse) : Prop where
  cnt : e.cnt.toNat = bs.length % 8
  wp : e.wp = (bs.length + 7) / 8
  slot : e.cnt ≠ 0#3 → e.slot = bs.length / 8
  acc : HoldsBits bs (bs.length / 8) e.acc
  out : Memory.HoldsBytes bs (bs.length / 8) e.out

theorem Bse.packed_init (e : Bse) : e.init.Packed [] :=
  ⟨rfl, rfl, fun h => absurd rfl h, holdsBits_zero (Nat.le_refl 0), nofun⟩

section
variable {bs : List Bool} {e : Bse}

theorem Bse.Packed.cnt_putBit (h : e.Packed bs) (b : Bool) : (e.putBit b).cnt.toNat = (bs ++ [b]).length % 8 := by
  rw [Bse.putBit_cnt_toNat, h.cnt, List.length_append, List.length_singleton]
  omega

theorem Bse.Packed.wp_putBit (h : e.Packed bs) (b : Bool) : (e.putBit b).wp = ((bs ++ [b]).length + 7) / 8 := by
  have hcnt := h.cnt
  simp only [Bse.putBit_wp, h.wp, cnt_eq_zero_iff, List.length_append, List.length_singleton]
  split <;> omega

/-- `SLOT` is the position of the byte that the next bit belongs to, once that bit has claimed it. -/
theorem Bse.Packed.slot_putBit (h : e.Packed bs) (b : Bool) : (e.putBit b).slot = bs.length / 8 := by
  have hcnt := h.cnt
  rw [Bse.putBit_slot]
  split
  · next hz =>
    rw [cnt_eq_zero_iff] at hz
    rw [h.wp]
    omega
  · next hz => exact h.slot hz

/-- A further bit, by whether it is the eighth of its byte. -/
theorem Bse.Packed.putBit (h : e.Packed bs) (b : Bool) : (e.putBit b).Packed (bs ++ [b]) := by
  have hlen : (bs ++ [b]).length = bs.length + 1 := by simp
  have hcnt := h.cnt
  have hacc := h.acc.putBitAt b
  have hout := h.out.append b
  by_cases h7 : e.cnt = 7#3
  · have hmod : bs.length % 8 = 7 := by rw [← hcnt, h7]; rfl
    have hdiv : (bs ++ [b]).length / 8 = bs.length / 8 + 1 := by omega
    have hslot : e.slot = bs.length / 8 := h.slot (by rw [h7]; decide)
    have he := Bse.putBit_eighth h7 b
    refine ⟨h.cnt_putBit b, h.wp_putBit b, fun hc => absurd (by rw [he]) hc, ?_, ?_⟩ <;> rw [hdiv, he]
    · exact holdsBits_zero (by omega)
    · rw [hmod] at hacc
      rw [hslot]
      exact hout.put hacc
  · have hmod : bs.length % 8 ≠ 7 := fun hm => h7 (BitVec.eq_of_toNat_eq (hcnt.trans hm))
    have hdiv : (bs ++ [b]).length / 8 = bs.length / 8 := by omega
    obtain ⟨hacc', hout'⟩ := Bse.putBit_pending h7 b
    refine ⟨h.cnt_putBit b, h.wp_putBit b, fun _ => (h.slot_putBit b).trans hdiv.symm, ?_, ?_⟩ <;> rw [hdiv]
    · rwa [hacc', hcnt]
    · rwa [hout']

end

theorem Bse.Packed.sendBits {bs cs : List Bool} {e : Bse} (h : e.Packed bs) : (e.sendBits cs).Packed (bs ++ cs) := by
  induction cs generalizing bs e with
  | nil => rwa [List.append_nil]
  | cons c cs ih =>
    rw [List.append_cons]
    exact ih (h.putBit c)

/-- After the flush every byte of the bits stands in `OUT` (rule R134). -/
theorem Bse.Packed.flush_out {bs : List Bool} {e : Bse} (h : e.Packed bs) :
    Memory.HoldsBytes bs ((bs.length + 7) / 8) e.flush.out := by
  have hcnt := h.cnt
  by_cases hz : e.cnt = 0#3
  · have hdiv : (bs.length + 7) / 8 = bs.length / 8 := by rw [cnt_eq_zero_iff] at hz; omega
    rw [Bse.flush_of_cnt_zero hz, hdiv]
    exact h.out
  · have hdiv : (bs.length + 7) / 8 = bs.length / 8 + 1 := by rw [cnt_eq_zero_iff] at hz; omega
    rw [Bse.flush_of_cnt_ne hz, h.slot hz, hdiv]
    exact h.out.put h.acc

/-- Settles O55: the bits fit, so the encoder is packed with them when the `FLUSH` comes. -/
theorem plainPacking : Obligations.PlainPacking := by
  intro cmds s hcmds hroom
  generalize hbs : cmds.flatMap sentBits = bs at hroom ⊢
  have hfits : s.bse.init.Fits s.params.outCap bs.length := .inr (by simp only [Bse.space, Bse.init]; omega)
  have hsend := execAll_sendsBits (s := s.setBse s.bse.init) hcmds rfl (by rwa [hbs])
  rw [hbs] at hsend
  have hpacked : (s.bse.init.sendBits bs).Packed bs := (Bse.packed_init s.bse).sendBits
  have hfault : (s.bse.init.sendBits bs).bfault = none := Bse.sendBits_bfault bs _
  have hwp : (s.bse.init.sendBits bs).flush.wp = (bs.length + 7) / 8 := (Bse.flush_wp _).trans hpacked.wp
  exact ⟨_, execAll_bsinit_flush_eq_next.mpr ⟨_, hsend, execFlush_none hfault⟩, sameOutsideBse_setBse s _,
    (Bse.flush_bfault _).trans hfault, Bse.flush_cnt _, hwp, fun j hj => hpacked.flush_out j (hwp ▸ hj)⟩

end Sys2Proof.Machine

/-! PROOF. The cost of a fault-free sequence agrees with `WP` (rule R136 (e)). -/

namespace Sys2Proof.Machine

/-- The positions claimed since `BSINIT` hold `total` bits and the bits still free in the pending byte. -/
def Bse.Accounts (total : Nat) (e : Bse) : Prop := 8 * e.wp = total + (8 - e.cnt.toNat) % 8

theorem Bse.accounts_init (e : Bse) : e.init.Accounts 0 := by
  simp [Bse.Accounts, Bse.init]

theorem Bse.Accounts.putBit {total : Nat} {e : Bse} (h : e.Accounts total) (b : Bool) :
    (e.putBit b).Accounts (total + 1) := by
  have := e.cnt.isLt
  unfold Bse.Accounts at *
  simp only [Bse.putBit_wp, Bse.putBit_cnt_toNat, cnt_eq_zero_iff]
  split <;> omega

theorem Bse.Accounts.sendBits {total : Nat} {bs : List Bool} {e : Bse} (h : e.Accounts total) :
    (e.sendBits bs).Accounts (total + bs.length) := by
  induction bs generalizing total e with
  | nil => exact h
  | cons b bs ih =>
    rw [List.length_cons, Nat.add_comm bs.length, ← Nat.add_assoc]
    exact ih (h.putBit b)

theorem Bse.Accounts.putByte {total : Nat} {e : Bse} (h : e.Accounts total) (v : Byte) :
    (e.putByte v).Accounts (total + 8) := by
  simp only [Bse.Accounts, Bse.putByte, Bse.writeOut] at *
  omega

/-- A fault-free command has found no fault set: the latch keeps one (rule R240). -/
theorem bfault_none_of_exec {c : Instr} (hc : c.isBse = true) (hinit : c ≠ .bsinit) {s t : State}
    (h : exec c s = .next t) (ht : t.bse.bfault = none) : s.bse.bfault = none := by
  by_contra hs
  cases (exec_bse_latched hc hinit hs).symm.trans h
  exact hs ht

theorem bfault_none_of_execAll {cmds : List Instr} (hcmds : ∀ c ∈ cmds, c.isBse = true ∧ c ≠ .bsinit) {s t : State}
    (h : execAll cmds s = .next t) (ht : t.bse.bfault = none) : s.bse.bfault = none := by
  induction cmds generalizing s with
  | nil =>
    cases h
    exact ht
  | cons c cmds ih =>
    obtain ⟨⟨hc, hinit⟩, hrest⟩ := List.forall_mem_cons.mp hcmds
    obtain ⟨u, hu, hall⟩ := execAll_cons_eq_next.mp h
    exact bfault_none_of_exec hc hinit hu (ih hrest hall)

/-- A fault-free command adds its cost (rules R131 to R135). -/
theorem accounts_exec {c : Instr} (hc : c.isBse = true ∧ c ≠ .bsinit ∧ c ≠ .flush) {s t : State}
    (h : exec c s = .next t) (ht : t.bse.bfault = none) {total : Nat} (hs : s.bse.Accounts total) :
    t.bse.Accounts (total + bitCost c) := by
  obtain ⟨hbse, hinit, hflush⟩ := hc
  have hnone := bfault_none_of_exec hbse hinit h ht
  cases c with
  | bsinit => exact absurd rfl hinit
  | flush => exact absurd rfl hflush
  | putbit b =>
    rcases execPutbit_cases hnone b with ⟨-, -, he⟩ | ⟨-, he⟩ <;> cases he.symm.trans h
    · cases ht
    · exact hs.putBit b
  | putbits n v =>
    rcases execPutbits_cases hnone n v with ⟨-, he⟩ | ⟨-, -, -, -, he⟩ | ⟨-, -, -, he⟩ <;> cases he.symm.trans h
    · cases ht
    · cases ht
    · rw [State.setBse_bse, Bse.putBits_eq_sendBits]
      exact hs.sendBits
  | putbyte v =>
    rcases execPutbyte_cases hnone v with ⟨-, he⟩ | ⟨-, he⟩ <;> cases he.symm.trans h
    · cases ht
    · exact hs.putByte v
  | _ => cases hbse

theorem accounts_execAll {cmds : List Instr} (hcmds : ∀ c ∈ cmds, c.isBse = true ∧ c ≠ .bsinit ∧ c ≠ .flush)
    {s t : State} (h : execAll cmds s = .next t) (ht : t.bse.bfault = none) {total : Nat}
    (hs : s.bse.Accounts total) : t.bse.Accounts (total + (cmds.map bitCost).sum) := by
  induction cmds generalizing s total with
  | nil =>
    cases h
    exact hs
  | cons c cmds ih =>
    obtain ⟨hc, hrest⟩ := List.forall_mem_cons.mp hcmds
    obtain ⟨u, hu, hall⟩ := execAll_cons_eq_next.mp h
    have hmid : u.bse.bfault = none :=
      bfault_none_of_execAll (fun c hmem => (hrest c hmem).imp id And.left) hall ht
    rw [List.map_cons, List.sum_cons, ← Nat.add_assoc]
    exact ih hrest hall (accounts_exec hc hu hmid hs)

/-- Settles O56: after `BSINIT` nothing is claimed, and `FLUSH` leaves `WP` as the sequence has left it. -/
theorem costConsistency : Obligations.CostConsistency := by
  intro cmds s t hcmds h ht
  obtain ⟨u, hall, hflush⟩ := execAll_bsinit_flush_eq_next.mp h
  have hnone : u.bse.bfault = none := bfault_none_of_exec (c := .flush) rfl nofun hflush ht
  cases (execFlush_none hnone).symm.trans hflush
  have hsum := accounts_execAll hcmds hall hnone (Bse.accounts_init s.bse)
  have := u.bse.cnt.isLt
  unfold Bse.Accounts at hsum
  rw [State.setBse_bse, Bse.flush_wp]
  omega

end Sys2Proof.Machine

/-! PROOF. The loads and moves (rules R150 to R154), and ten words written out from the spec. -/

namespace Sys2Proof.Machine

/-! ### What a write leaves unchanged -/

theorem sameRegsBut_writeReg (s : State) (r : Reg) (v : Byte) : SameRegsBut [r] s (s.writeReg r v) := fun q hq =>
  (s.readReg_writeReg r q v).trans (if_neg (List.ne_of_not_mem_cons hq))

theorem sameRegsBut_writePair (s : State) (p : Pair) (v : Word) : SameRegsBut (halves p) s (s.writePair p v) := by
  intro q hq
  have hhi : q ≠ pairHi p := List.ne_of_not_mem_cons hq
  have hlo : q ≠ pairLo p := List.ne_of_not_mem_cons (List.not_mem_of_not_mem_cons hq)
  rw [State.readReg_writePair, if_neg hhi, if_neg hlo]

theorem regFrame_writeReg (s : State) (r : Reg) (v : Byte) : RegFrame [r] s (s.writeReg r v) :=
  ⟨sameRegsBut_writeReg s r v, rfl, ⟨rfl, rfl, rfl⟩, rfl, rfl, rfl, rfl, rfl, rfl⟩

theorem regFrame_writePair (s : State) (p : Pair) (v : Word) : RegFrame (halves p) s (s.writePair p v) :=
  ⟨sameRegsBut_writePair s p v, rfl, ⟨rfl, rfl, rfl⟩, rfl, rfl, rfl, rfl, rfl, rfl⟩

theorem regFrame_writeRam (s : State) (a : Word) (v : Byte) : RegFrame [] s (s.writeRam a v) :=
  ⟨fun _ _ => rfl, rfl, ⟨rfl, rfl, rfl⟩, rfl, rfl, rfl, rfl, rfl, rfl⟩

theorem sameRamBut_writeRam (s : State) (a : Word) (v : Byte) : SameRamBut a s (s.writeRam a v) := fun b hb =>
  (s.readRam_writeRam a b v).trans (if_neg hb)

/-! ### A write, then `pc` moved on -/

theorem regFrame_advance {ds : List Reg} {s u : State} (h : RegFrame ds s u) (n : Nat) :
    RegFrame ds s (u.advance n) := h

theorem pcMoved_advance {s u : State} (h : u.mcu.pc = s.mcu.pc) (n : Nat) : PcMoved n s (u.advance n) :=
  pcMoved_pcPlus (congrArg (· + BitVec.ofNat 16 n) h)

/-- What `LD Rd,Rs`, `LD Rd,#n` and `LD Rd,(Wp)` share: they differ in the byte `v` and in their length. -/
theorem writeReg_advance (s : State) (rd : Reg) (v : Byte) (n : Nat) :
    let t := (s.writeReg rd v).advance n
    t.readReg rd = v ∧ PcMoved n s t ∧ RegFrame [rd] s t ∧ t.mcu.flags = s.mcu.flags ∧ SameRam s t :=
  ⟨RegFile.get_set_same s.mcu.regs rd v, pcMoved_advance rfl n, regFrame_advance (regFrame_writeReg s rd v) n, rfl,
    fun _ => rfl⟩

/-! ### The obligations -/

/-- Settles O1: both forms are one write of `Rd`. -/
theorem loadRegisterForms : Obligations.LoadRegisterForms := fun s rd rs n =>
  ⟨⟨_, rfl, writeReg_advance s rd (s.readReg rs) 1⟩, ⟨_, rfl, writeReg_advance s rd n 2⟩⟩

/-- Settles O2: the halves by the rule for a pair's write, which keeps the two registers of a pair apart. -/
theorem loadPairImmediate : Obligations.LoadPairImmediate := by
  intro s wp nn
  have hhi : (s.writePair wp nn).readReg (pairHi wp) = highByte nn := by
    rw [State.readReg_writePair, if_pos rfl]
  have hlo : (s.writePair wp nn).readReg (pairLo wp) = lowByte nn := by
    rw [State.readReg_writePair, if_neg (pairHi_ne_pairLo wp wp).symm, if_pos rfl]
  exact ⟨_, rfl, (congrArg BitVec.toNat hhi).trans (highByte_toNat nn),
    (congrArg BitVec.toNat hlo).trans (lowByte_toNat nn), s.readPair_writePair_same wp nn, pcMoved_advance rfl 3,
    regFrame_advance (regFrame_writePair s wp nn) 3, rfl, fun _ => rfl⟩

/-- Settles O3: the load takes its address from the state before the write, so that `Rd` may be half of `Wp`. -/
theorem loadStoreRam : Obligations.LoadStoreRam := by
  intro s rd rs wp
  have hstored : (s.writeRam (s.readPair wp) (s.readReg rs)).readRam (s.readPair wp) = s.readReg rs := by
    rw [State.readRam_writeRam, if_pos rfl]
  exact ⟨⟨_, rfl, writeReg_advance s rd (s.readRam (s.readPair wp)) 2⟩,
    ⟨_, rfl, hstored, sameRamBut_writeRam s _ _, pcMoved_advance rfl 2, regFrame_advance (regFrame_writeRam s _ _) 2,
      rfl⟩⟩

/-- Settles O43: each word is the encoding of its instruction, and what `encode` writes `decode` reads back. -/
theorem specWordsDecode : Obligations.SpecWordsDecode :=
  ⟨decode_encode (.ldRR .r2 .r5), decode_encode (.ldWNN .w2 0x1234#16), decode_encode (.ldRMem .r6 .w2),
    decode_encode (.incw .w2), decode_encode (.rl .r1), decode_encode (.addw .w2 .w0), decode_encode .bcir,
    decode_encode (.push .w2), decode_encode (.jpCc .z 0x2000#16), decode_encode (.putbits 3#4 5#8)⟩

end Sys2Proof.Machine

/-! PROOF. The increments and decrements of a register and of a pair (rules R160 to R163). -/

namespace Sys2Proof.Machine

/-! ### The flags as facts about numbers, for every width -/

theorem zeroFlag_eq_true_iff {n : Nat} (x : BitVec n) : zeroFlag x = true ↔ x.toNat = 0 :=
  beq_iff_eq.trans BitVec.toNat_inj.symm

theorem signFlag_eq_true_iff {n : Nat} (x : BitVec n) : signFlag x = true ↔ 2 ^ (n - 1) ≤ x.toNat := by
  rw [signFlag, BitVec.msb_eq_decide, decide_eq_true_iff]

theorem zeroSign_ofIncDec {n : Nat} (f : Flags) (res : BitVec n) (pv : Bool) :
    ZeroSign res (f.ofIncDec res pv) :=
  ⟨zeroFlag_eq_true_iff res, signFlag_eq_true_iff res⟩

/-- Adding 1 overflows at the largest signed number alone (rules R160, R162). -/
theorem signedOverflow_inc {n : Nat} (f : Flags) (x res : BitVec n) :
    SignedOverflow n (x.toInt + 1) (f.ofIncDec res (x == BitVec.intMax n)) := by
  have hmax : (x == BitVec.intMax n) = true ↔ x.toInt = 2 ^ (n - 1) - 1 := by
    rw [beq_iff_eq, ← BitVec.toInt_inj, BitVec.toInt_intMax]
  have hlow := BitVec.le_toInt x
  have hhigh := BitVec.toInt_lt (x := x)
  refine hmax.trans ?_
  omega

/-- Subtracting 1 overflows at the smallest signed number alone (rules R161, R163). -/
theorem signedOverflow_dec {n : Nat} (hn : 0 < n) (f : Flags) (x res : BitVec n) :
    SignedOverflow n (x.toInt - 1) (f.ofIncDec res (x == BitVec.intMin n)) := by
  have hmin : (x == BitVec.intMin n) = true ↔ x.toInt = -2 ^ (n - 1) := by
    rw [beq_iff_eq, ← BitVec.toInt_inj, BitVec.toInt_intMin_of_pos hn]
  have hlow := BitVec.le_toInt x
  have hhigh := BitVec.toInt_lt (x := x)
  refine hmin.trans ?_
  omega

/-! ### A result and its flags written, then `pc` moved on -/

/-- What `INC Rr` and `DEC Rr` share: `k` is the number written and `e` the exact signed result. -/
theorem incDecReg_effect (s : State) (r : Reg) {res : Byte} {pv : Bool} {k : Nat} {e : Int} (hval : res.toNat = k)
    (hpv : SignedOverflow 8 e (s.mcu.flags.ofIncDec res pv)) :
    let t := s.incDecReg r res pv
    (t.readReg r).toNat = k ∧ ZeroSign (t.readReg r) t.mcu.flags ∧ SignedOverflow 8 e t.mcu.flags
      ∧ t.mcu.flags.c = s.mcu.flags.c ∧ PcMoved 1 s t ∧ RegFrame [r] s t ∧ SameRam s t := by
  intro t
  have hread : t.readReg r = res := RegFile.get_set_same s.mcu.regs r res
  rw [hread]
  exact ⟨hval, zeroSign_ofIncDec s.mcu.flags res pv, hpv, rfl, pcMoved_advance rfl 1,
    regFrame_advance (regFrame_writeReg s r res) 1, fun _ => rfl⟩

/-- What `INCW Wp` and `DECW Wp` share: `k` is the number written and `e` the exact signed result. -/
theorem incDecPair_effect (s : State) (p : Pair) {res : Word} {pv : Bool} {k : Nat} {e : Int} (hval : res.toNat = k)
    (hpv : SignedOverflow 16 e (s.mcu.flags.ofIncDec res pv)) :
    let t := s.incDecPair p res pv
    (t.readPair p).toNat = k ∧ ZeroSign (t.readPair p) t.mcu.flags ∧ SignedOverflow 16 e t.mcu.flags
      ∧ t.mcu.flags.c = s.mcu.flags.c ∧ PcMoved 1 s t ∧ RegFrame (halves p) s t ∧ SameRam s t := by
  intro t
  have hread : t.readPair p = res := s.readPair_writePair_same p res
  rw [hread]
  exact ⟨hval, zeroSign_ofIncDec s.mcu.flags res pv, hpv, rfl, pcMoved_advance rfl 1,
    regFrame_advance (regFrame_writePair s p res) 1, fun _ => rfl⟩

/-! ### The obligations -/

/-- Settles O4: `0x7F` is the largest signed byte and `0x80` the smallest. -/
theorem incDecRegister : Obligations.IncDecRegister := by
  intro s r
  have hinc : (s.readReg r + 1#8).toNat = ((s.readReg r).toNat + 1) % 256 := BitVec.toNat_add _ _
  have hdec : (s.readReg r - 1#8).toNat = ((s.readReg r).toNat + 255) % 256 := BitVec.toNat_sub' _ _
  exact ⟨⟨_, rfl, incDecReg_effect s r hinc (signedOverflow_inc _ (s.readReg r) _)⟩,
    ⟨_, rfl, incDecReg_effect s r hdec (signedOverflow_dec (by decide) _ (s.readReg r) _)⟩⟩

/-- Settles O5: `0x7FFF` is the largest signed word and `0x8000` the smallest. -/
theorem incDecPair : Obligations.IncDecPair := by
  intro s p
  have hinc : (s.readPair p + 1#16).toNat = ((s.readPair p).toNat + 1) % 65536 := BitVec.toNat_add _ _
  have hdec : (s.readPair p - 1#16).toNat = ((s.readPair p).toNat + 65535) % 65536 := BitVec.toNat_sub' _ _
  exact ⟨⟨_, rfl, incDecPair_effect s p hinc (signedOverflow_inc _ (s.readPair p) _)⟩,
    ⟨_, rfl, incDecPair_effect s p hdec (signedOverflow_dec (by decide) _ (s.readPair p) _)⟩⟩

end Sys2Proof.Machine

/-! PROOF. The rotates, the shifts and the bit instructions (rules R170 to R175).

For the rotates, a register and `C` are read as a ring of nine places: `RL` turns it by one place, `RR` back. -/

namespace Sys2Proof.Machine

/-! ### The bits and the value of a byte moved by one place -/

theorem getLsbD_eq_true_iff {n : Nat} (x : BitVec n) (i : Nat) : x.getLsbD i = true ↔ x.toNat / 2 ^ i % 2 = 1 := by
  rw [← BitVec.testBit_toNat, Nat.testBit_eq_decide_div_mod_eq, decide_eq_true_iff]

theorem getLsbD_shiftLeftIn_zero (v : Byte) (b : Bool) : (shiftLeftIn v b).getLsbD 0 = b := by
  rw [shiftLeftIn, BitVec.getLsbD_append, if_pos Nat.one_pos, BitVec.getLsbD_ofBool]
  rfl

theorem getLsbD_shiftLeftIn_succ (v : Byte) (b : Bool) {i : Nat} (hi : i < 7) :
    (shiftLeftIn v b).getLsbD (i + 1) = v.getLsbD i := by
  rw [shiftLeftIn, BitVec.getLsbD_append, if_neg (by omega), BitVec.getLsbD_extractLsb']
  simp [hi]

theorem getLsbD_shiftRightIn_seven (v : Byte) (b : Bool) : (shiftRightIn v b).getLsbD 7 = b := by
  rw [shiftRightIn, BitVec.getLsbD_append, if_neg (by omega), BitVec.getLsbD_ofBool]
  rfl

theorem getLsbD_shiftRightIn (v : Byte) (b : Bool) {i : Nat} (hi : i < 7) :
    (shiftRightIn v b).getLsbD i = v.getLsbD (i + 1) := by
  rw [shiftRightIn, BitVec.getLsbD_append, if_pos hi, BitVec.getLsbD_extractLsb', Nat.add_comm 1 i]
  simp [hi]

theorem shiftLeftIn_toNat (v : Byte) (b : Bool) : (shiftLeftIn v b).toNat = 2 * v.toNat % 256 + b.toNat := by
  rw [shiftLeftIn, append_toNat, BitVec.extractLsb'_toNat, BitVec.toNat_ofBool, Nat.shiftRight_zero]
  omega

theorem shiftRightIn_toNat (v : Byte) (b : Bool) : (shiftRightIn v b).toNat = b.toNat * 128 + v.toNat / 2 := by
  have := v.isLt
  rw [shiftRightIn, append_toNat, BitVec.extractLsb'_toNat, BitVec.toNat_ofBool, Nat.shiftRight_eq_div_pow]
  omega

/-! ### The flags of a rotate or shift -/

theorem length_filter_range_succ (p : Nat → Bool) (n : Nat) :
    ((List.range (n + 1)).filter p).length = ((List.range n).filter p).length + (p n).toNat := by
  rw [List.range_succ, List.filter_append, List.length_append]
  cases h : p n <;> simp [h]

theorem onesCount_eq_length_filter (v : Byte) :
    onesCount v = ((List.range 8).filter (fun i => v.getLsbD i)).length := by
  simp only [onesCount, length_filter_range_succ, List.range_zero, List.filter_nil, List.length_nil, Nat.zero_add]

theorem evenParity_ofShift (out : Bool) (res : Byte) : EvenParity res (Flags.ofShift out res) := by
  rw [EvenParity, ← onesCount_eq_length_filter]
  exact beq_iff_eq

theorem State.readReg_shiftReg (s : State) (r : Reg) (out : Bool) (res : Byte) :
    (s.shiftReg r out res).readReg r = res :=
  RegFile.get_set_same s.mcu.regs r res

/-- What the rotates and the shifts share: they differ in the result and in the bit moved out. -/
theorem shiftReg_effect (s : State) (r : Reg) (out : Bool) (res : Byte) :
    let t := s.shiftReg r out res
    ZeroSign (t.readReg r) t.mcu.flags ∧ EvenParity (t.readReg r) t.mcu.flags ∧ PcMoved 1 s t ∧ RegFrame [r] s t
      ∧ SameRam s t := by
  intro t
  rw [State.readReg_shiftReg]
  exact ⟨⟨zeroFlag_eq_true_iff res, signFlag_eq_true_iff res⟩, evenParity_ofShift out res, pcMoved_advance rfl 1,
    regFrame_advance (regFrame_writeReg s r res) 1, fun _ => rfl⟩

/-- Settles O6: each bit by the place it comes from. -/
theorem rotateThroughCarry : Obligations.RotateThroughCarry := by
  intro s r
  refine ⟨⟨_, rfl, fun i hi => ?_, ?_, rfl, shiftReg_effect s r _ _⟩,
    ⟨_, rfl, fun i hi => ?_, ?_, rfl, shiftReg_effect s r _ _⟩⟩ <;> rw [State.readReg_shiftReg]
  · exact getLsbD_shiftLeftIn_succ _ _ hi
  · exact getLsbD_shiftLeftIn_zero _ _
  · exact getLsbD_shiftRightIn _ _ hi
  · exact getLsbD_shiftRightIn_seven _ _

/-- Settles O7: the result as a number, and the bit moved out as a quotient. -/
theorem logicalShifts : Obligations.LogicalShifts := by
  intro s r
  have hlt := (s.readReg r).isLt
  have hhigh := getLsbD_eq_true_iff (s.readReg r) 7
  have hlow := getLsbD_eq_true_iff (s.readReg r) 0
  refine ⟨⟨_, rfl, ?_, hhigh.trans (by omega), shiftReg_effect s r _ _⟩,
    ⟨_, rfl, ?_, hlow.trans (by omega), shiftReg_effect s r _ _⟩⟩ <;> rw [State.readReg_shiftReg]
  · exact shiftLeftIn_toNat _ false
  · exact (shiftRightIn_toNat _ false).trans (by simp)

/-! ### The ring of nine places -/

/-- A register's bits and, at place 8, the carry. -/
def State.ring (s : State) (r : Reg) (i : Fin 9) : Bool := (BitVec.cons s.mcu.flags.c (s.readReg r)).getLsbD i

theorem State.ring_last (s : State) (r : Reg) : s.ring r (Fin.last 8) = s.mcu.flags.c :=
  BitVec.getLsbD_cons _ _ 8

theorem State.ring_castSucc (s : State) (r : Reg) (i : Fin 8) : s.ring r i.castSucc = (s.readReg r).getLsbD i :=
  (BitVec.getLsbD_cons _ _ i).trans (if_neg i.isLt.ne)

/-- The sequence completes, takes the bit at each place of the ring `d` places on, and writes no other register. -/
def Turns (is : List Instr) (r : Reg) (d : Fin 9) : Prop :=
  ∀ s, ∃ t, execAll is s = .next t ∧ (∀ i, t.ring r (i + d) = s.ring r i) ∧ SameRegsBut [r] s t

theorem turns_nil (r : Reg) : Turns [] r 0 := fun s => ⟨s, rfl, fun i => by rw [add_zero], fun _ _ => rfl⟩

theorem Turns.append {is js : List Instr} {r : Reg} {d e : Fin 9} (hi : Turns is r d) (hj : Turns js r e) :
    Turns (is ++ js) r (d + e) := by
  intro s
  obtain ⟨t, ht, htring, htregs⟩ := hi s
  obtain ⟨u, hu, huring, huregs⟩ := hj t
  exact ⟨u, execAll_append_eq_next.mpr ⟨t, ht, hu⟩, fun i => by rw [← add_assoc, huring, htring],
    fun q hq => (huregs q hq).trans (htregs q hq)⟩

theorem Turns.replicate {i : Instr} {r : Reg} {d : Fin 9} (h : Turns [i] r d) (n : Nat) :
    Turns (List.replicate n i) r (n • d) := by
  induction n with
  | zero => exact zero_nsmul d ▸ turns_nil r
  | succ n ih => exact succ_nsmul' d n ▸ h.append ih

/-- A ring turned all the way around is the ring it was. -/
theorem Turns.restores {is : List Instr} {r : Reg} (h : Turns is r 0) (s : State) :
    ∃ t, execAll is s = .next t ∧ t.mcu.regs = s.mcu.regs ∧ t.mcu.flags.c = s.mcu.flags.c := by
  obtain ⟨t, ht, hring, hregs⟩ := h s
  simp only [add_zero] at hring
  have hreg : t.readReg r = s.readReg r := BitVec.eq_of_getLsbD_eq fun i hi => by
    simpa only [State.ring_castSucc] using hring (Fin.castSucc ⟨i, hi⟩)
  have hcarry : t.mcu.flags.c = s.mcu.flags.c := by simpa only [State.ring_last] using hring (Fin.last 8)
  refine ⟨t, ht, RegFile.ext_get fun q => ?_, hcarry⟩
  by_cases hq : q = r
  · exact hq ▸ hreg
  · exact hregs q (by simpa using hq)

/-- The bits of `t` are those of `s`, each one place up: bit 7 in `C`, and `C` in bit 0. -/
theorem ring_up {s t : State} {r : Reg} (hbits : ∀ i < 7, (t.readReg r).getLsbD (i + 1) = (s.readReg r).getLsbD i)
    (hin : (t.readReg r).getLsbD 0 = s.mcu.flags.c) (hout : t.mcu.flags.c = (s.readReg r).getLsbD 7) (i : Fin 9) :
    t.ring r (i + 1) = s.ring r i := by
  induction i using Fin.lastCases with
  | last => exact (t.ring_castSucc r 0).trans (hin.trans (s.ring_last r).symm)
  | cast i =>
    rw [State.ring_castSucc]
    induction i using Fin.lastCases with
    | last => exact (t.ring_last r).trans hout
    | cast i =>
      have hplace : i.castSucc.castSucc + 1 = i.succ.castSucc := by rw [Fin.coeSucc_eq_succ, Fin.succ_castSucc]
      rw [hplace, State.ring_castSucc]
      exact hbits i i.isLt

/-- `RL` turns the ring by one place (R170). -/
theorem turns_rl (r : Reg) : Turns [.rl r] r 1 := by
  intro s
  obtain ⟨t, ht, hbits, hin, hout, -, -, -, ⟨hregs, -⟩, -⟩ := (rotateThroughCarry s r).1
  exact ⟨t, (execAll_singleton _ s).trans ht, ring_up hbits hin hout, hregs⟩

/-- `RR` turns the ring back by one place (R171): the state before it is one place up from the state after it. -/
theorem turns_rr (r : Reg) : Turns [.rr r] r (-1) := by
  intro s
  obtain ⟨t, ht, hbits, hin, hout, -, -, -, ⟨hregs, -⟩, -⟩ := (rotateThroughCarry s r).2
  refine ⟨t, (execAll_singleton _ s).trans ht, fun i => ?_, hregs⟩
  have hup := ring_up (s := t) (t := s) (fun j hj => (hbits j hj).symm) hout.symm hin.symm (i + -1)
  rw [← hup, neg_add_cancel_right]

/-- Settles O8: one place on and one place back. -/
theorem rotatesUndoEachOther : Obligations.RotatesUndoEachOther := fun s r =>
  ⟨((turns_rl r).append (turns_rr r)).restores s, ((turns_rr r).append (turns_rl r)).restores s⟩

/-- Settles O9: nine places are once around. -/
theorem nineRotatesRestore : Obligations.NineRotatesRestore := fun s r =>
  ⟨((turns_rl r).replicate 9).restores s, ((turns_rr r).replicate 9).restores s⟩

/-! ### One bit tested or cleared -/

theorem regFrame_setFlags (s : State) (f : Flags) : RegFrame [] s (s.setFlags f) :=
  ⟨fun _ _ => rfl, rfl, ⟨rfl, rfl, rfl⟩, rfl, rfl, rfl, rfl, rfl, rfl⟩

/-- Settles O10: a bit is 0 exactly when it is not 1. -/
theorem bitTestWritesZOnly : Obligations.BitTestWritesZOnly := by
  intro s b r
  have hz : (!(s.readReg r).getLsbD b.toNat) = true ↔ (s.readReg r).toNat / 2 ^ b.toNat % 2 = 0 := by
    rw [Bool.not_eq_true', ← Bool.not_eq_true, getLsbD_eq_true_iff, Nat.mod_two_not_eq_one]
  exact ⟨_, rfl, hz, rfl, rfl, rfl, pcMoved_advance rfl 2, regFrame_advance (regFrame_setFlags s _) 2, fun _ => rfl⟩

/-- Settles O11: the write of a register with one bit put at `b`. -/
theorem resetBitClearsOneBit : Obligations.ResetBitClearsOneBit := by
  intro s b r
  obtain ⟨hread, hpc, hframe, hflags, hram⟩ := writeReg_advance s r (putBitAt (s.readReg r) b.toNat false) 2
  refine ⟨_, rfl, ?_, fun i _ hne => ?_, hflags, hpc, hframe, hram⟩
  · rw [hread, getLsbD_putBitAt _ b.isLt, if_pos rfl]
  · rw [hread, getLsbD_putBitAt _ b.isLt, if_neg hne]

end Sys2Proof.Machine

/-! PROOF. The pair arithmetic (rules R180 to R183).

Subtraction is not analysed apart from addition: `a - b - C` is `a + ~~~b + (1 - C)`, result and overflow alike. -/

namespace Sys2Proof.Machine

/-! ### Addition and subtraction as numbers -/

theorem addRes_toNat (a b : Word) (cin : Bool) : (addRes a b cin).toNat = (a.toNat + b.toNat + cin.toNat) % 65536 :=
  BitVec.toNat_ofNat _ _

theorem addCarry_eq_true_iff (a b : Word) (cin : Bool) :
    addCarry a b cin = true ↔ 65536 ≤ a.toNat + b.toNat + cin.toNat :=
  decide_eq_true_iff

theorem subRes_toNat (a b : Word) (cin : Bool) :
    ((subRes a b cin).toNat : Int) = (a.toNat - b.toNat - cin.toNat : Int) % 65536 := by
  rw [subRes, BitVec.toNat_ofInt]
  exact Int.toNat_of_nonneg (Int.emod_nonneg _ (by decide))

theorem subBorrow_eq_true_iff (a b : Word) (cin : Bool) :
    subBorrow a b cin = true ↔ a.toNat < b.toNat + cin.toNat := by
  rw [subBorrow, decide_eq_true_iff, diff17]
  omega

/-! ### Subtraction as addition of the complement -/

theorem toNat_not_add_toNat (b : Bool) : (!b).toNat + b.toNat = 1 := by
  cases b <;> rfl

theorem subRes_eq_addRes_not (a b : Word) (cin : Bool) : subRes a b cin = addRes a (~~~b) (!cin) := by
  have hdiff := subRes_toNat a b cin
  have hcin := toNat_not_add_toNat cin
  have hb := b.isLt
  apply BitVec.eq_of_toNat_eq
  rw [addRes_toNat, BitVec.toNat_not]
  omega

theorem ovfSub_eq_ovfAdd_not (a b r : Word) : ovfSub a b r = ovfAdd a (~~~b) r := by
  rw [ovfSub, ovfAdd, BitVec.msb_not]
  cases a.msb <;> cases b.msb <;> rfl

theorem toInt_not_eq_neg_sub_one (b : Word) : (~~~b).toInt = -b.toInt - 1 := by
  have hb := b.isLt
  rw [BitVec.toInt_eq_toNat_cond, BitVec.toInt_eq_toNat_cond, BitVec.toNat_not]
  omega

/-! ### The signed overflow -/

/-- Rule R8 in terms of signs: the operands agree and the result does not. -/
theorem ovfAdd_eq_true_iff {n : Nat} (a b r : BitVec n) :
    ovfAdd a b r = true ↔ (a.toInt < 0 ↔ b.toInt < 0) ∧ ¬(r.toInt < 0 ↔ a.toInt < 0) := by
  simp only [ovfAdd, BitVec.msb_eq_toInt, Bool.and_eq_true, beq_iff_eq, bne_iff_ne, ne_eq, decide_eq_decide]

theorem signedOverflow_add (carry : Bool) (a b : Word) (cin : Bool) :
    SignedOverflow 16 (a.toInt + b.toInt + cin.toNat)
      (Flags.ofArith carry (addRes a b cin) (ovfAdd a b (addRes a b cin))) := by
  have hsum := addRes_toNat a b cin
  have hcin := cin.toNat_le
  have ha := a.isLt
  have hb := b.isLt
  refine (ovfAdd_eq_true_iff a b _).trans ?_
  simp only [BitVec.toInt_eq_toNat_cond]
  omega

theorem signedOverflow_sub (borrow : Bool) (a b : Word) (cin : Bool) :
    SignedOverflow 16 (a.toInt - b.toInt - cin.toNat)
      (Flags.ofArith borrow (subRes a b cin) (ovfSub a b (subRes a b cin))) := by
  have hexact : a.toInt - b.toInt - cin.toNat = a.toInt + (~~~b).toInt + (!cin).toNat := by
    have hcin := toNat_not_add_toNat cin
    rw [toInt_not_eq_neg_sub_one]
    omega
  rw [hexact, ovfSub_eq_ovfAdd_not, subRes_eq_addRes_not]
  exact signedOverflow_add borrow a (~~~b) (!cin)

/-! ### A pair and all four flags written, then `pc` moved on -/

theorem State.readPair_arithPair (s : State) (p : Pair) (carry : Bool) (res : Word) (ovf : Bool) :
    (s.arithPair p carry res ovf).readPair p = res :=
  s.readPair_writePair_same p res

/-- What `ADDW`, `ADCW` and `SBCW` share: `e` is the exact signed result. -/
theorem arithPair_effect (s : State) (p : Pair) {carry : Bool} {res : Word} {ovf : Bool} {e : Int}
    (hpv : SignedOverflow 16 e (Flags.ofArith carry res ovf)) :
    let t := s.arithPair p carry res ovf
    ZeroSign (t.readPair p) t.mcu.flags ∧ SignedOverflow 16 e t.mcu.flags ∧ PcMoved 1 s t
      ∧ RegFrame (halves p) s t ∧ SameRam s t := by
  intro t
  rw [State.readPair_arithPair]
  exact ⟨⟨zeroFlag_eq_true_iff res, signFlag_eq_true_iff res⟩, hpv, pcMoved_advance rfl 1,
    regFrame_advance (regFrame_writePair s p res) 1, fun _ => rfl⟩

/-- Settles O12: `ADDW` is the addition of `ADCW` with 0 carried in. -/
theorem pairAddition : Obligations.PairAddition := by
  intro s wd ws
  have hplain : (s.readPair wd).toInt + (s.readPair ws).toInt + (false.toNat : Int)
      = (s.readPair wd).toInt + (s.readPair ws).toInt := add_zero _
  refine ⟨⟨_, rfl, ?_, addCarry_eq_true_iff _ _ false, arithPair_effect s wd (hplain ▸ signedOverflow_add _ _ _ false)⟩,
    ⟨_, rfl, ?_, addCarry_eq_true_iff _ _ _, arithPair_effect s wd (signedOverflow_add _ _ _ _)⟩⟩ <;>
    rw [State.readPair_arithPair]
  · exact addRes_toNat _ _ false
  · exact addRes_toNat _ _ _

/-- Settles O13: the overflow through the complement, the result and the borrow as they are defined. -/
theorem pairSubtraction : Obligations.PairSubtraction := by
  intro s wd ws
  refine ⟨_, rfl, ?_, subBorrow_eq_true_iff _ _ _, arithPair_effect s wd (signedOverflow_sub _ _ _ _)⟩
  rw [State.readPair_arithPair]
  exact subRes_toNat _ _ _

/-! ### A pair added to itself, and subtracted from itself -/

/-- The 17 bits of the sum are those of the pair with the carry appended below. -/
theorem sum17_self (a : Word) (cin : Bool) : sum17 a a cin = (a.concat cin).toNat := by
  rw [sum17, BitVec.toNat_concat, Nat.mul_two]

theorem addRes_self (a : Word) (cin : Bool) : addRes a a cin = (a.concat cin).setWidth 16 := by
  rw [addRes, sum17_self, BitVec.ofNat_toNat]

theorem addCarry_self (a : Word) (cin : Bool) : addCarry a a cin = a.getLsbD 15 := by
  rw [addCarry, sum17_self]
  exact (BitVec.msb_eq_decide (a.concat cin)).symm.trans BitVec.msb_concat

theorem diff17_self (a : Word) (cin : Bool) : diff17 a a cin = -cin.toNat := by
  rw [diff17, Int.sub_self, Int.zero_sub]

theorem subRes_self (a : Word) (cin : Bool) : subRes a a cin = if cin then 0xFFFF#16 else 0x0000#16 := by
  rw [subRes, diff17_self]
  cases cin <;> rfl

theorem subBorrow_self (a : Word) (cin : Bool) : subBorrow a a cin = cin := by
  rw [subBorrow, diff17_self]
  cases cin <;> rfl

theorem ovfSub_self {n : Nat} (a r : BitVec n) : ovfSub a a r = false := by
  rw [ovfSub, bne_self_eq_false, Bool.false_and]

/-- Settles O14: the sum by its 17 bits; the difference is 0 or -1, and equal operands never overflow. -/
theorem pairArithmeticOnItself : Obligations.PairArithmeticOnItself := by
  intro s p
  have hsum := addRes_self (s.readPair p) s.mcu.flags.c
  have hdiff := subRes_self (s.readPair p) s.mcu.flags.c
  refine ⟨⟨_, rfl, ?_, fun i hi => ?_, addCarry_self _ _⟩,
    ⟨_, rfl, ?_, subBorrow_self _ _, (congrArg zeroFlag hdiff).trans ?_, (congrArg signFlag hdiff).trans ?_,
      ovfSub_self _ _⟩⟩
  · rw [State.readPair_arithPair, hsum, BitVec.getLsbD_setWidth, BitVec.getLsbD_concat_zero]
    rfl
  · rw [State.readPair_arithPair, hsum, BitVec.getLsbD_setWidth, BitVec.getLsbD_concat_succ,
      decide_eq_true (by omega), Bool.true_and]
  · rw [State.readPair_arithPair, hdiff]
    cases s.mcu.flags.c <;> rfl
  · cases s.mcu.flags.c <;> rfl
  · cases s.mcu.flags.c <;> rfl

end Sys2Proof.Machine

/-! PROOF. The block copies (rules R190 to R195).

`State.bcSteps` is the step of rule R190 done a number of times: `BCIR` and `BCDR` are that, and so are `BCI`s and
`BCD`s in sequence. Byte `i` of the destination reads as the byte that step `i` read, so that a copy is known by which
bytes the steps before have written. -/

namespace Sys2Proof.Machine

/-! ### One step -/

/-- The registers that a block copy writes are the halves of `W0`, `W1` and `W2`. -/
theorem sameRegsBut_bcStep (s : State) (dir : Word) : SameRegsBut [.r0, .r1, .r2, .r3, .r4, .r5] s (s.bcStep dir) := by
  intro r hr
  cases r with
  | r6 | r7 => rfl
  | r0 | r1 | r2 | r3 | r4 | r5 => exact absurd (by decide) hr

theorem regFrame_bcStep (s : State) (dir : Word) : RegFrame [.r0, .r1, .r2, .r3, .r4, .r5] s (s.bcStep dir) :=
  ⟨sameRegsBut_bcStep s dir, rfl, ⟨rfl, rfl, rfl⟩, rfl, rfl, rfl, rfl, rfl, rfl⟩

/-- What `BCI` and `BCD` share: they differ in `dir`, 1 or 65535. -/
theorem bcStep_effect (s : State) (dir : Word) :
    let t := (s.bcStep dir).advance 1
    t.readRam (s.readPair .w1) = s.readRam (s.readPair .w2)
      ∧ SameRamBut (s.readPair .w1) s t
      ∧ (t.readPair .w2).toNat = ((s.readPair .w2).toNat + dir.toNat) % 65536
      ∧ (t.readPair .w1).toNat = ((s.readPair .w1).toNat + dir.toNat) % 65536
      ∧ (t.readPair .w0).toNat = ((s.readPair .w0).toNat + 65535) % 65536
      ∧ t.mcu.flags = s.mcu.flags ∧ PcMoved 1 s t
      ∧ RegFrame [.r0, .r1, .r2, .r3, .r4, .r5] s t := by
  intro t
  obtain ⟨hsource, hdest, hcount, -⟩ := s.bcStep_pairs dir
  exact ⟨(s.bcStep_ram dir _).trans (if_pos rfl), fun a ha => (s.bcStep_ram dir a).trans (if_neg ha),
    (congrArg BitVec.toNat hsource).trans (BitVec.toNat_add _ _),
    (congrArg BitVec.toNat hdest).trans (BitVec.toNat_add _ _),
    (congrArg BitVec.toNat hcount).trans (BitVec.toNat_sub' _ _), rfl, pcMoved_advance rfl 1,
    regFrame_advance (regFrame_bcStep s dir) 1⟩

/-- Settles O15: one step, up or down. -/
theorem blockCopyStep : Obligations.BlockCopyStep := fun s =>
  ⟨⟨_, rfl, bcStep_effect s bcUp⟩, ⟨_, rfl, bcStep_effect s bcDown⟩⟩

/-! ### The addresses that a copy runs through -/

/-- The address `i` steps on from `a`. -/
def bcAddr (a dir : Word) (i : Nat) : Word := a + BitVec.ofNat 16 i * dir

@[simp] theorem bcAddr_zero (a dir : Word) : bcAddr a dir 0 = a := by
  simp [bcAddr]

theorem bcAddr_succ (a dir : Word) (i : Nat) : bcAddr a dir (i + 1) = bcAddr a dir i + dir := by
  rw [bcAddr, bcAddr, BitVec.ofNat_add, BitVec.add_mul, BitVec.one_mul, BitVec.add_assoc]

theorem bcAddr_bcUp (a : Word) (i : Nat) : bcAddr a bcUp i = a + BitVec.ofNat 16 i :=
  congrArg (a + ·) (BitVec.mul_one _)

theorem bcAddr_bcDown (a : Word) (i : Nat) : bcAddr a bcDown i = a - BitVec.ofNat 16 i := by
  have hdown : bcDown = -1#16 := rfl
  rw [bcAddr, hdown, BitVec.mul_neg, BitVec.mul_one, BitVec.sub_eq_add_neg]

theorem bcAddr_bcUp_toNat (a : Word) (i : Nat) : (bcAddr a bcUp i).toNat = (a.toNat + i) % 65536 := by
  rw [bcAddr_bcUp, BitVec.toNat_add, BitVec.toNat_ofNat, Nat.add_mod_mod]

theorem bcAddr_bcDown_toNat (a : Word) {i : Nat} (hi : i ≤ 65536) :
    (bcAddr a bcDown i).toNat = (a.toNat + (65536 - i)) % 65536 := by
  rw [bcAddr_bcDown, BitVec.toNat_sub', BitVec.toNat_ofNat]
  omega

/-- A copy comes to an address again after 65536 steps at the earliest; `dir` is its own inverse. -/
theorem bcAddr_injective {a dir : Word} (hdir : dir * dir = 1#16) {i j : Nat} (hi : i < 65536) (hj : j < 65536)
    (h : bcAddr a dir i = bcAddr a dir j) : i = j := by
  have hmul : BitVec.ofNat 16 i * dir = BitVec.ofNat 16 j * dir := add_left_cancel h
  have hofNat : BitVec.ofNat 16 i = BitVec.ofNat 16 j := by
    simpa only [BitVec.mul_assoc, hdir, BitVec.mul_one] using congrArg (· * dir) hmul
  have htoNat := congrArg BitVec.toNat hofNat
  rwa [BitVec.toNat_ofNat, BitVec.toNat_ofNat, Nat.mod_eq_of_lt hi, Nat.mod_eq_of_lt hj] at htoNat

/-! ### A number of steps -/

/-- `n` block-copy steps. -/
def State.bcSteps (s : State) (dir : Word) (n : Nat) : State := (State.bcStep · dir)^[n] s

theorem State.bcSteps_succ (s : State) (dir : Word) (n : Nat) : s.bcSteps dir (n + 1) = (s.bcSteps dir n).bcStep dir :=
  Function.iterate_succ_apply' _ _ _

theorem State.bcStep_bcSteps (s : State) (dir : Word) (n : Nat) :
    (s.bcStep dir).bcSteps dir n = s.bcSteps dir (n + 1) :=
  rfl

theorem State.bcSteps_pairs (s : State) (dir : Word) (n : Nat) :
    (s.bcSteps dir n).readPair .w2 = bcAddr (s.readPair .w2) dir n
      ∧ (s.bcSteps dir n).readPair .w1 = bcAddr (s.readPair .w1) dir n
      ∧ (s.bcSteps dir n).readPair .w0 = s.readPair .w0 - BitVec.ofNat 16 n := by
  induction n with
  | zero => exact ⟨(bcAddr_zero _ _).symm, (bcAddr_zero _ _).symm, (BitVec.sub_zero _).symm⟩
  | succ n ih =>
    obtain ⟨hsource, hdest, hcount⟩ := ih
    obtain ⟨hsource', hdest', hcount', -⟩ := (s.bcSteps dir n).bcStep_pairs dir
    rw [State.bcSteps_succ, hsource', hdest', hcount', hsource, hdest, hcount, bcAddr_succ, bcAddr_succ,
      BitVec.ofNat_add, sub_add_eq_sub_sub]
    exact ⟨rfl, rfl, rfl⟩

theorem State.bcSteps_frame (s : State) (dir : Word) (n : Nat) :
    (s.bcSteps dir n).mcu.flags = s.mcu.flags ∧ (s.bcSteps dir n).mcu.pc = s.mcu.pc
      ∧ RegFrame [.r0, .r1, .r2, .r3, .r4, .r5] s (s.bcSteps dir n) := by
  induction n with
  | zero => exact ⟨rfl, rfl, fun _ _ => rfl, rfl, ⟨rfl, rfl, rfl⟩, rfl, rfl, rfl, rfl, rfl, rfl⟩
  | succ n ih =>
    obtain ⟨hflags, hpc, hregs, hrest⟩ := ih
    rw [State.bcSteps_succ]
    exact ⟨hflags, hpc, fun r hr => (sameRegsBut_bcStep _ dir r hr).trans (hregs r hr), hrest⟩

/-- Step `n` writes at address `n` of the destination what it reads at address `n` of the source. -/
theorem State.bcSteps_succ_ram (s : State) (dir : Word) (n : Nat) (a : Word) :
    (s.bcSteps dir (n + 1)).readRam a
      = if a = bcAddr (s.readPair .w1) dir n then (s.bcSteps dir n).readRam (bcAddr (s.readPair .w2) dir n)
        else (s.bcSteps dir n).readRam a := by
  obtain ⟨hsource, hdest, -⟩ := s.bcSteps_pairs dir n
  rw [State.bcSteps_succ, State.bcStep_ram, hsource, hdest]

/-- The steps write no byte outside the addresses that `W1` runs through. -/
theorem State.bcSteps_ram_other {s : State} {dir : Word} {n : Nat} {a : Word}
    (ha : ∀ i < n, a ≠ bcAddr (s.readPair .w1) dir i) : (s.bcSteps dir n).readRam a = s.readRam a := by
  induction n with
  | zero => rfl
  | succ n ih =>
    rw [State.bcSteps_succ_ram, if_neg (ha n n.lt_succ_self)]
    exact ih fun i hi => ha i (Nat.lt_succ_of_lt hi)

/-- Byte `i` of the destination is the byte that step `i` read: no later step writes there. -/
theorem State.bcSteps_ram_dest (s : State) {dir : Word} (hdir : dir * dir = 1#16) {n i : Nat} (hi : i < n)
    (hn : n ≤ 65536) :
    (s.bcSteps dir n).readRam (bcAddr (s.readPair .w1) dir i)
      = (s.bcSteps dir i).readRam (bcAddr (s.readPair .w2) dir i) := by
  induction n with
  | zero => exact absurd hi i.not_lt_zero
  | succ n ih =>
    rw [State.bcSteps_succ_ram]
    rcases Nat.lt_succ_iff_lt_or_eq.mp hi with hlt | rfl
    · rw [if_neg fun h => hlt.ne (bcAddr_injective hdir (by omega) (by omega) h)]
      exact ih hlt (by omega)
    · exact if_pos rfl

/-! ### The steps of a repeat -/

/-- How many bytes a repeating block copy copies (rules R193, R194). -/
def State.bcTotal (s : State) : Nat := if s.readPair .w0 = 0#16 then 65536 else (s.readPair .w0).toNat

/-- The total is at least 1, at most the fuel, and what the counter says modulo 2^16. -/
theorem State.bcTotal_spec (s : State) :
    0 < s.bcTotal ∧ s.bcTotal ≤ 65536 ∧ s.readPair .w0 = BitVec.ofNat 16 s.bcTotal := by
  have hlt := (s.readPair .w0).isLt
  unfold State.bcTotal
  split
  · next hzero => exact ⟨by decide, Nat.le_refl _, hzero⟩
  · next hpos =>
    rw [← BitVec.toNat_inj] at hpos
    exact ⟨Nat.pos_of_ne_zero hpos, hlt.le, by rw [BitVec.ofNat_toNat, BitVec.setWidth_eq]⟩

theorem State.bcTotal_of_pos {s : State} (h : 0 < (s.readPair .w0).toNat) : s.bcTotal = (s.readPair .w0).toNat :=
  if_neg fun hzero => h.ne' (congrArg BitVec.toNat hzero)

/-- With fuel enough, a repeat stops at the first step that leaves the counter 0 (rule R196). -/
theorem State.bcRepeat_eq_bcSteps {s : State} (dir : Word) {n fuel : Nat}
    (hcount : s.readPair .w0 = BitVec.ofNat 16 (n + 1)) (hn : n < 65536) (hfuel : n < fuel) :
    State.bcRepeat dir fuel s = s.bcSteps dir (n + 1) := by
  induction fuel generalizing s n with
  | zero => exact absurd hfuel n.not_lt_zero
  | succ fuel ih =>
    have hnext : (s.bcStep dir).readPair bcCount = BitVec.ofNat 16 n := by
      obtain ⟨-, -, hstep, -⟩ := s.bcStep_pairs dir
      rw [bcCount, hstep, hcount, BitVec.ofNat_add, add_sub_cancel_right]
    rw [State.bcRepeat, hnext]
    cases n with
    | zero => rfl
    | succ n =>
      have hleft : BitVec.ofNat 16 (n + 1) ≠ 0#16 := by
        rw [ne_eq, ← BitVec.toNat_inj, BitVec.toNat_ofNat, Nat.mod_eq_of_lt hn]
        exact n.succ_ne_zero
      rw [if_neg hleft, ih hnext (Nat.lt_of_succ_lt hn) (Nat.lt_of_succ_lt_succ hfuel), State.bcStep_bcSteps]

theorem State.bcRepeat_bcFuel (s : State) (dir : Word) :
    State.bcRepeat dir bcFuel s = s.bcSteps dir s.bcTotal := by
  obtain ⟨hpos, hle, hcount⟩ := s.bcTotal_spec
  obtain ⟨n, hn⟩ := Nat.exists_eq_succ_of_ne_zero hpos.ne'
  rw [hn] at hle hcount ⊢
  exact State.bcRepeat_eq_bcSteps dir hcount hle hle

theorem exec_bcir (s : State) : exec .bcir s = .next ((s.bcSteps bcUp s.bcTotal).advance 1) :=
  congrArg (fun u : State => Host.Outcome.next (u.advance 1)) (s.bcRepeat_bcFuel bcUp)

theorem exec_bcdr (s : State) : exec .bcdr s = .next ((s.bcSteps bcDown s.bcTotal).advance 1) :=
  congrArg (fun u : State => Host.Outcome.next (u.advance 1)) (s.bcRepeat_bcFuel bcDown)

/-! ### A repeat against single steps -/

/-- `BCI`s or `BCD`s in sequence: `pc` moves at each, and no step looks at it. -/
theorem execAll_replicate_bcStep {i : Instr} {dir : Word} (hi : ∀ s, exec i s = .next ((s.bcStep dir).advance 1))
    (s : State) (n : Nat) : execAll (List.replicate n i) s = .next ((s.bcSteps dir n).advance n) := by
  induction n with
  | zero =>
    have hpc : s.pcPlus 0 = s.mcu.pc := BitVec.add_zero _
    rw [State.advance, State.bcSteps, Function.iterate_zero_apply, hpc]
    rfl
  | succ n ih =>
    have hpc (t : State) : (t.advance n).advance 1 = t.advance (n + 1) := by
      rw [State.advance, State.pcPlus, State.advance_mcu_pc, BitVec.add_assoc, ← BitVec.ofNat_add]
      rfl
    rw [List.replicate_succ', execAll_append_eq_next]
    refine ⟨_, ih, ?_⟩
    rw [execAll_singleton, hi, State.bcSteps_succ, ← hpc]
    rfl

/-- What a repeat and as many single steps leave differs in `pc`. -/
theorem bcSteps_advance_eq (s : State) (dir : Word) (n m : Nat) :
    (s.bcSteps dir n).advance 1 = ((s.bcSteps dir n).advance m).setPc (s.mcu.pc + 1#16) := by
  obtain ⟨-, hpc, -⟩ := s.bcSteps_frame dir n
  rw [← hpc]
  rfl

/-- Settles O16: both sides are the same number of steps, and `pc`. -/
theorem blockRepeatIsSteps : Obligations.BlockRepeatIsSteps := by
  rintro s _ rfl
  exact ⟨⟨_, _, exec_bcir s, execAll_replicate_bcStep (fun _ => rfl) s _, bcSteps_advance_eq s bcUp _ _⟩,
    ⟨_, _, exec_bcdr s, execAll_replicate_bcStep (fun _ => rfl) s _, bcSteps_advance_eq s bcDown _ _⟩⟩

/-- What a repeat up and a repeat down share at their end. -/
theorem bcSteps_bcTotal_effect (s : State) (dir : Word) :
    let t := (s.bcSteps dir s.bcTotal).advance 1
    t.readPair .w0 = 0#16 ∧ t.readPair .w2 = bcAddr (s.readPair .w2) dir s.bcTotal
      ∧ t.readPair .w1 = bcAddr (s.readPair .w1) dir s.bcTotal
      ∧ (∀ a : Word, (∀ i < s.bcTotal, a ≠ bcAddr (s.readPair .w1) dir i) → t.readRam a = s.readRam a)
      ∧ t.mcu.flags = s.mcu.flags ∧ PcMoved 1 s t ∧ RegFrame [.r0, .r1, .r2, .r3, .r4, .r5] s t := by
  intro t
  obtain ⟨-, -, htotal⟩ := s.bcTotal_spec
  obtain ⟨hsource, hdest, hcount⟩ := s.bcSteps_pairs dir s.bcTotal
  obtain ⟨hflags, hpc, hframe⟩ := s.bcSteps_frame dir s.bcTotal
  rw [htotal, sub_self] at hcount
  exact ⟨hcount, hsource, hdest, fun a ha => State.bcSteps_ram_other ha, hflags, pcMoved_advance hpc 1,
    regFrame_advance hframe 1⟩

/-- Settles O17: the addresses as numbers. -/
theorem blockRepeatEnds : Obligations.BlockRepeatEnds := by
  rintro s _ rfl
  obtain ⟨-, hle, -⟩ := s.bcTotal_spec
  obtain ⟨hcountUp, hsourceUp, hdestUp, hramUp, hrestUp⟩ := bcSteps_bcTotal_effect s bcUp
  obtain ⟨hcountDown, hsourceDown, hdestDown, hramDown, hrestDown⟩ := bcSteps_bcTotal_effect s bcDown
  simp only [bcAddr_bcUp] at hramUp
  simp only [bcAddr_bcDown] at hramDown
  exact ⟨⟨_, exec_bcir s, hcountUp, (congrArg BitVec.toNat hsourceUp).trans (bcAddr_bcUp_toNat _ _),
      (congrArg BitVec.toNat hdestUp).trans (bcAddr_bcUp_toNat _ _), hramUp, hrestUp⟩,
    ⟨_, exec_bcdr s, hcountDown, (congrArg BitVec.toNat hsourceDown).trans (bcAddr_bcDown_toNat _ hle),
      (congrArg BitVec.toNat hdestDown).trans (bcAddr_bcDown_toNat _ hle), hramDown, hrestDown⟩⟩

/-! ### Overlapping blocks -/

/-- With the destination `k` bytes ahead, step `i` reads the old source byte `i % k`: for `k ≤ i` the byte that step
`i - k` has written. -/
theorem bcSteps_up_reads {s : State} {n k : Nat} (hk : 0 < k)
    (hahead : (s.readPair .w1).toNat = (s.readPair .w2).toNat + k) (hend : (s.readPair .w1).toNat + n ≤ 65536)
    {i : Nat} (hi : i < n) :
    (s.bcSteps bcUp i).readRam (bcAddr (s.readPair .w2) bcUp i)
      = s.readRam (bcAddr (s.readPair .w2) bcUp (i % k)) := by
  induction i using Nat.strong_induction_on with
  | h i ih =>
    rcases Nat.lt_or_ge i k with hlt | hge
    · rw [Nat.mod_eq_of_lt hlt]
      refine State.bcSteps_ram_other fun j hj => ?_
      rw [ne_eq, ← BitVec.toNat_inj, bcAddr_bcUp_toNat, bcAddr_bcUp_toNat]
      omega
    · have hsame : bcAddr (s.readPair .w2) bcUp i = bcAddr (s.readPair .w1) bcUp (i - k) := by
        rw [← BitVec.toNat_inj, bcAddr_bcUp_toNat, bcAddr_bcUp_toNat]
        omega
      have hback : i - k < i := Nat.sub_lt_self hk hge
      rw [hsame, State.bcSteps_ram_dest s (by decide) hback (by omega), ih _ hback (by omega),
        ← Nat.mod_eq_sub_mod hge]

/-- Settles O18: the bytes of the destination are those that the steps read. -/
theorem blockCopyUpReplicates : Obligations.BlockCopyUpReplicates := by
  rintro s n k rfl hpos hk hahead hend
  have hexec := exec_bcir s
  rw [State.bcTotal_of_pos hpos] at hexec
  simp only [← bcAddr_bcUp]
  refine ⟨_, hexec, fun i hi => ?_, fun a ha => State.bcSteps_ram_other ha⟩
  exact (s.bcSteps_ram_dest (by decide) hi (by omega)).trans (bcSteps_up_reads hk hahead hend hi)

/-- With the destination at or above the source, going down, no step reads what a step before it has written. -/
theorem bcSteps_down_reads {s : State} (habove : (s.readPair .w2).toNat ≤ (s.readPair .w1).toNat) {i : Nat}
    (hi : i ≤ (s.readPair .w2).toNat) :
    (s.bcSteps bcDown i).readRam (bcAddr (s.readPair .w2) bcDown i) = s.readRam (bcAddr (s.readPair .w2) bcDown i) := by
  have hlt := (s.readPair .w1).isLt
  refine State.bcSteps_ram_other fun j hj => ?_
  rw [ne_eq, ← BitVec.toNat_inj, bcAddr_bcDown_toNat _ (by omega), bcAddr_bcDown_toNat _ (by omega)]
  omega

/-- Settles O19: the bytes of the destination are those that the steps read. -/
theorem blockCopyDownMoves : Obligations.BlockCopyDownMoves := by
  rintro s n rfl hpos habove hend
  have hexec := exec_bcdr s
  have hlt := (s.readPair .w2).isLt
  rw [State.bcTotal_of_pos hpos] at hexec
  simp only [← bcAddr_bcDown]
  refine ⟨_, hexec, fun i hi => ?_, fun a ha => State.bcSteps_ram_other ha⟩
  exact (s.bcSteps_ram_dest (by decide) hi (by omega)).trans (bcSteps_down_reads habove (by omega))

end Sys2Proof.Machine

/-! PROOF. The stack and the exchanges (rules R200 to R204).

Each stack instruction is first said as an equation between stacks: `PUSH` puts the pair of the old state on the old
stack, `POP` leaves a stack on which the pair of the new state would be the old one, and `XTS` does both over the same
entries. The entries at each index, and the round trips, follow from these equations. -/

namespace Sys2Proof.Machine

/-! ### A stack with one entry on top of others -/

theorem sd_of_stk_cons {s : State} {top : Word} {rest : List Word} (h : s.mcu.stk = top :: rest) :
    s.sd = rest.length + 1 :=
  congrArg List.length h

theorem sd_of_stk_nil {s : State} (h : s.mcu.stk = []) : s.sd = 0 :=
  congrArg List.length h

theorem stkEntry_top {s : State} {top : Word} {rest : List Word} (h : s.mcu.stk = top :: rest) :
    s.stkEntry rest.length = some top := by
  rw [State.stkEntry, h, List.reverse_cons, ← List.length_reverse, List.getElem?_concat_length]

theorem stkEntry_below {s : State} {top : Word} {rest : List Word} (h : s.mcu.stk = top :: rest) {i : Nat}
    (hi : i < rest.length) : s.stkEntry i = rest.reverse[i]? := by
  rw [State.stkEntry, h, List.reverse_cons, List.getElem?_append_left (hi.trans_eq List.length_reverse.symm)]

/-! ### Frames -/

theorem sameRegsBut_trans {as bs : List Reg} {s t u : State} (hst : SameRegsBut as s t) (htu : SameRegsBut bs t u) :
    SameRegsBut (as ++ bs) s u := by
  intro r hr
  rw [List.mem_append, not_or] at hr
  obtain ⟨has, hbs⟩ := hr
  exact (htu r hbs).trans (hst r has)

theorem sameRunRegs_trans {s t u : State} (hst : SameRunRegs s t) (htu : SameRunRegs t u) : SameRunRegs s u := by
  obtain ⟨hrun, hfault, hfpc⟩ := hst
  rwa [SameRunRegs, ← hrun, ← hfault, ← hfpc]

theorem sameOutsideMcu_trans {s t u : State} (hst : SameOutsideMcu s t) (htu : SameOutsideMcu t u) :
    SameOutsideMcu s u := by
  obtain ⟨hparams, hprog, hbse, hinbox, hreply, hfree⟩ := hst
  rwa [SameOutsideMcu, ← hparams, ← hprog, ← hbse, ← hinbox, ← hreply, ← hfree]

theorem stkFrame_trans {as bs : List Reg} {s t u : State} (hst : StkFrame as s t) (htu : StkFrame bs t u) :
    StkFrame (as ++ bs) s u := by
  obtain ⟨hregs, hflags, hram, hrun, hout⟩ := hst
  obtain ⟨hregs', hflags', hram', hrun', hout'⟩ := htu
  exact ⟨sameRegsBut_trans hregs hregs', hflags'.trans hflags, fun a => (hram' a).trans (hram a),
    sameRunRegs_trans hrun hrun', sameOutsideMcu_trans hout hout'⟩

theorem regFrame_trans {as bs : List Reg} {s t u : State} (hst : RegFrame as s t) (htu : RegFrame bs t u) :
    RegFrame (as ++ bs) s u := by
  obtain ⟨hregs, hstk, hrun, hout⟩ := hst
  obtain ⟨hregs', hstk', hrun', hout'⟩ := htu
  exact ⟨sameRegsBut_trans hregs hregs', hstk'.trans hstk, sameRunRegs_trans hrun hrun',
    sameOutsideMcu_trans hout hout'⟩

theorem pcMoved_trans {m n : Nat} {s t u : State} (hst : PcMoved m s t) (htu : PcMoved n t u) :
    PcMoved (m + n) s u := by
  rw [PcMoved, htu, hst, Nat.mod_add_mod, Nat.add_assoc]

theorem stkFrame_setStk (s : State) (l : List Word) : StkFrame [] s (s.setStk l) :=
  ⟨fun _ _ => rfl, rfl, fun _ => rfl, ⟨rfl, rfl, rfl⟩, rfl, rfl, rfl, rfl, rfl, rfl⟩

theorem stkFrame_writePair (s : State) (p : Pair) (v : Word) : StkFrame (halves p) s (s.writePair p v) :=
  ⟨sameRegsBut_writePair s p v, rfl, fun _ => rfl, ⟨rfl, rfl, rfl⟩, rfl, rfl, rfl, rfl, rfl, rfl⟩

theorem stkFrame_advance {ds : List Reg} {s u : State} (h : StkFrame ds s u) (n : Nat) :
    StkFrame ds s (u.advance n) := h

/-- What `POP` and `XTS` share: they differ in the stack `l` that they leave. -/
theorem setStk_writePair_advance (s : State) (l : List Word) (p : Pair) (v : Word) :
    let t := ((s.setStk l).writePair p v).advance 1
    t.readPair p = v ∧ PcMoved 1 s t ∧ StkFrame (halves p) s t :=
  ⟨(s.setStk l).readPair_writePair_same p v, pcMoved_advance rfl 1,
    stkFrame_advance (stkFrame_trans (stkFrame_setStk s l) (stkFrame_writePair _ p v)) 1⟩

/-! ### The stack instructions -/

/-- `PUSH` as an equation between stacks (R200). -/
theorem exec_push_of_room {s : State} (hroom : s.sd ≠ s.params.stackDepth) (wp : Pair) :
    ∃ t, exec (.push wp) s = .next t ∧ t.mcu.stk = s.readPair wp :: s.mcu.stk ∧ PcMoved 1 s t ∧ StkFrame [] s t := by
  rcases execPush_cases wp s with ⟨hfull, -⟩ | ⟨-, he⟩
  · exact absurd hfull hroom
  · exact ⟨_, he, rfl, pcMoved_advance rfl 1, stkFrame_advance (stkFrame_setStk s _) 1⟩

/-- `POP` as an equation between stacks (R201). -/
theorem exec_pop_of_sd_ne_zero {s : State} (hne : s.sd ≠ 0) (wp : Pair) :
    ∃ t, exec (.pop wp) s = .next t ∧ s.mcu.stk = t.readPair wp :: t.mcu.stk ∧ PcMoved 1 s t
      ∧ StkFrame (halves wp) s t := by
  rcases execPop_cases wp s with ⟨hempty, -⟩ | ⟨top, rest, hstk, he⟩
  · exact absurd (sd_of_stk_nil hempty) hne
  · obtain ⟨hread, hpc, hframe⟩ := setStk_writePair_advance s rest wp top
    refine ⟨_, he, ?_, hpc, hframe⟩
    rw [hread]
    exact hstk

/-- `XTS` as equations between stacks (R202). -/
theorem exec_xts_of_sd_ne_zero {s : State} (hne : s.sd ≠ 0) (wp : Pair) :
    ∃ t rest, exec (.xts wp) s = .next t ∧ s.mcu.stk = t.readPair wp :: rest ∧ t.mcu.stk = s.readPair wp :: rest
      ∧ PcMoved 1 s t ∧ StkFrame (halves wp) s t := by
  rcases execXts_cases wp s with ⟨hempty, -⟩ | ⟨top, rest, hstk, he⟩
  · exact absurd (sd_of_stk_nil hempty) hne
  · obtain ⟨hread, hpc, hframe⟩ := setStk_writePair_advance s (s.readPair wp :: rest) wp top
    refine ⟨_, rest, he, ?_, rfl, hpc, hframe⟩
    rw [hread]
    exact hstk

theorem exec_pop_of_sd_eq_zero {s : State} (h : s.sd = 0) (wp : Pair) :
    exec (.pop wp) s = .next (s.raise .stackUnderflow) := by
  rw [exec, execPop, List.eq_nil_of_length_eq_zero h]

theorem exec_xts_of_sd_eq_zero {s : State} (h : s.sd = 0) (wp : Pair) :
    exec (.xts wp) s = .next (s.raise .stackUnderflow) := by
  rw [exec, execXts, List.eq_nil_of_length_eq_zero h]

/-- Settles O20: the pair is one entry on top of the old stack. -/
theorem pushAddsAnEntry : Obligations.PushAddsAnEntry := by
  intro s wp
  refine ⟨fun hfull => ?_, fun hroom => ?_⟩
  · rcases execPush_cases wp s with ⟨-, he⟩ | ⟨hroom, -⟩
    · exact ⟨_, he, rfl⟩
    · exact absurd hfull hroom
  · obtain ⟨t, he, hstk, hpc, hframe⟩ := exec_push_of_room hroom wp
    exact ⟨t, he, sd_of_stk_cons hstk, stkEntry_top hstk, fun _ => stkEntry_below hstk, hpc, hframe⟩

/-- Settles O21: the old stack is one entry on top of what is left. -/
theorem popTakesTheTop : Obligations.PopTakesTheTop := by
  intro s wp
  refine ⟨fun hempty => ⟨_, exec_pop_of_sd_eq_zero hempty wp, rfl⟩, fun hne => ?_⟩
  obtain ⟨t, he, hstk, hpc, hframe⟩ := exec_pop_of_sd_ne_zero hne wp
  exact ⟨t, he, (sd_of_stk_cons hstk).symm, stkEntry_top hstk, fun _ hi => (stkEntry_below hstk hi).symm, hpc, hframe⟩

/-- Settles O22: both stacks are one entry on top of the same entries. -/
theorem exchangeWithTop : Obligations.ExchangeWithTop := by
  intro s wp
  refine ⟨fun hempty => ⟨_, exec_xts_of_sd_eq_zero hempty wp, rfl⟩, fun hne => ?_⟩
  obtain ⟨t, rest, he, hold, hnew, hpc, hframe⟩ := exec_xts_of_sd_ne_zero hne wp
  have hsd : s.sd = rest.length + 1 := sd_of_stk_cons hold
  refine ⟨t, he, (sd_of_stk_cons hnew).trans hsd.symm, ?_⟩
  rw [hsd, Nat.add_sub_cancel]
  exact ⟨stkEntry_top hold, stkEntry_top hnew, fun _ hi => (stkEntry_below hnew hi).trans (stkEntry_below hold hi).symm,
    hpc, hframe⟩

/-! ### Round trips -/

/-- The value of a pair determines its halves (rule R21). -/
theorem readReg_eq_of_readPair_eq {s t : State} {p : Pair} (h : t.readPair p = s.readPair p) {r : Reg}
    (hr : r ∈ halves p) : t.readReg r = s.readReg r := by
  rw [State.readPair_eq, State.readPair_eq] at h
  rcases List.mem_pair.mp hr with rfl | rfl
  · simpa only [highByte_joinBytes] using congrArg highByte h
  · simpa only [lowByte_joinBytes] using congrArg lowByte h

/-- No register outside a pair changed, nor did the pair, so no register did. -/
theorem regs_eq_of_readPair_eq {s t : State} {p : Pair} (hregs : SameRegsBut (halves p) s t)
    (h : t.readPair p = s.readPair p) : t.mcu.regs = s.mcu.regs := by
  refine RegFile.ext_get fun r => ?_
  by_cases hr : r ∈ halves p
  · exact readReg_eq_of_readPair_eq h hr
  · exact hregs r hr

/-- Settles O23: the stack in between is an entry on top of what the first instruction found and of what the second one
left, so that these agree. -/
theorem stackRoundTrips : Obligations.StackRoundTrips := by
  intro s wa wb
  refine ⟨fun hroom => ?_, fun hne => ?_⟩
  · obtain ⟨t, hpush, hstk, hpc, hframe⟩ := exec_push_of_room hroom wa
    have hne : t.sd ≠ 0 := (sd_of_stk_cons hstk).trans_ne (Nat.succ_ne_zero _)
    obtain ⟨u, hpop, hstk', hpc', hframe'⟩ := exec_pop_of_sd_ne_zero hne wb
    obtain ⟨hread, hrest⟩ := List.cons_eq_cons.mp (hstk'.symm.trans hstk)
    exact ⟨u, execAll_cons_eq_next.mpr ⟨t, hpush, (execAll_singleton _ t).trans hpop⟩, hread, hrest,
      pcMoved_trans hpc hpc', stkFrame_trans hframe hframe'⟩
  · obtain ⟨t, rest, hfirst, hold, hnew, -, hregs, -⟩ := exec_xts_of_sd_ne_zero hne wa
    have hne : t.sd ≠ 0 := (sd_of_stk_cons hnew).trans_ne (Nat.succ_ne_zero _)
    obtain ⟨u, rest', hsecond, hold', hnew', -, hregs', -⟩ := exec_xts_of_sd_ne_zero hne wa
    obtain ⟨hread, hrest⟩ := List.cons_eq_cons.mp (hold'.symm.trans hnew)
    have hkept : SameRegsBut (halves wa) s u := fun r hr => (hregs' r hr).trans (hregs r hr)
    exact ⟨u, execAll_cons_eq_next.mpr ⟨t, hfirst, (execAll_singleton _ t).trans hsecond⟩,
      regs_eq_of_readPair_eq hkept hread, by rw [hnew', hold, hrest]⟩

/-! ### Exchanges -/

/-- The pair written first keeps its value: it is not written again, or with the same value. -/
theorem State.readPair_exchange_first (s : State) (wa wb : Pair) :
    ((s.writePair wa (s.readPair wb)).writePair wb (s.readPair wa)).readPair wa = s.readPair wb := by
  by_cases h : wa = wb
  · rw [h, State.readPair_writePair_same]
  · rw [State.readPair_writePair_other h, State.readPair_writePair_same]

/-- The register written first keeps its value, for the same reason. -/
theorem State.readReg_exchange_first (s : State) (ra rb : Reg) :
    ((s.writeReg ra (s.readReg rb)).writeReg rb (s.readReg ra)).readReg ra = s.readReg rb := by
  rw [State.readReg_writeReg, State.readReg_writeReg, if_pos rfl]
  split
  · next h => rw [h]
  · rfl

/-- Settles O24: two writes, of values read before the first. -/
theorem exchanges : Obligations.Exchanges := by
  intro s wa wb ra rb
  have hpairs := regFrame_trans (regFrame_writePair s wa (s.readPair wb)) (regFrame_writePair _ wb (s.readPair wa))
  have hregs := regFrame_trans (regFrame_writeReg s ra (s.readReg rb)) (regFrame_writeReg _ rb (s.readReg ra))
  exact ⟨⟨_, rfl, s.readPair_exchange_first wa wb, State.readPair_writePair_same _ wb _, rfl, pcMoved_advance rfl 1,
      regFrame_advance hpairs 1, fun _ => rfl⟩,
    ⟨_, rfl, s.readReg_exchange_first ra rb, RegFile.get_set_same _ rb _, rfl, pcMoved_advance rfl 2,
      regFrame_advance hregs 2, fun _ => rfl⟩⟩

end Sys2Proof.Machine

/-! PROOF. The control transfers and the system instructions (rules R210 to R218).

A conditional transfer is one of two instructions already known: the unconditional one when its condition holds, and
`pc` moved on otherwise. So each clause about a taken `CALL cc` or `RET cc` is the clause about `CALL` or `RET`. The
effect on the stack is an equation between stacks, as for `PUSH` and `POP`. -/

namespace Sys2Proof.Machine

/-! ### What a write of `pc` leaves unchanged -/

theorem regFrame_setPc (s : State) (a : Word) : RegFrame [] s (s.setPc a) :=
  ⟨fun _ _ => rfl, rfl, ⟨rfl, rfl, rfl⟩, rfl, rfl, rfl, rfl, rfl, rfl⟩

theorem stkFrame_setStk_setPc (s : State) (l : List Word) (a : Word) : StkFrame [] s ((s.setStk l).setPc a) :=
  stkFrame_setStk s l

/-- What the untaken conditional calls and returns share: they differ in their length. -/
theorem advance_effect (s : State) (n : Nat) :
    let t := s.advance n
    PcMoved n s t ∧ t.mcu.stk = s.mcu.stk ∧ StkFrame [] s t :=
  ⟨pcMoved_advance rfl n, rfl, stkFrame_advance (stkFrame_setStk s s.mcu.stk) n⟩

theorem State.pcPlus_toNat (s : State) (n : Nat) : (s.pcPlus n).toNat = (s.mcu.pc.toNat + n) % 65536 :=
  pcMoved_advance (u := s) rfl n

/-! ### A transfer on a condition -/

theorem exec_jpCc (cc : Cond) (nn : Word) (s : State) :
    exec (.jpCc cc nn) s = if condHolds cc s.mcu.flags then exec (.jp nn) s else .next (s.advance 3) :=
  apply_ite Host.Outcome.next _ _ _

theorem exec_callCc (cc : Cond) (nn : Word) (s : State) :
    exec (.callCc cc nn) s = if condHolds cc s.mcu.flags then exec (.call nn) s else .next (s.advance 3) :=
  apply_ite Host.Outcome.next _ _ _

theorem exec_retCc (cc : Cond) (s : State) :
    exec (.retCc cc) s = if condHolds cc s.mcu.flags then exec .ret s else .next (s.advance 1) :=
  apply_ite Host.Outcome.next _ _ _

/-! ### Calls and returns -/

theorem call_faults_of_full {s : State} (hfull : s.sd = s.params.stackDepth) (nn : Word) :
    ∃ t, exec (.call nn) s = .next t ∧ FaultEntry .stackOverflow s t := by
  rcases s.callTo_cases nn with ⟨-, he⟩ | ⟨hroom, -⟩
  · exact ⟨_, congrArg Host.Outcome.next he, rfl⟩
  · exact absurd hfull hroom

/-- `CALL` as an equation between stacks (R212). -/
theorem exec_call_of_room {s : State} (hroom : s.sd ≠ s.params.stackDepth) (nn : Word) :
    ∃ t, exec (.call nn) s = .next t ∧ t.mcu.stk = s.pcPlus 3 :: s.mcu.stk ∧ t.mcu.pc = nn ∧ StkFrame [] s t := by
  rcases s.callTo_cases nn with ⟨hfull, -⟩ | ⟨-, he⟩
  · exact absurd hfull hroom
  · exact ⟨_, congrArg Host.Outcome.next he, rfl, rfl, stkFrame_setStk_setPc s _ nn⟩

theorem call_pushes_of_room {s : State} (hroom : s.sd ≠ s.params.stackDepth) (nn : Word) :
    ∃ t v, exec (.call nn) s = .next t ∧ t.sd = s.sd + 1 ∧ t.stkEntry s.sd = some v
      ∧ v.toNat = (s.mcu.pc.toNat + 3) % 65536 ∧ (∀ i < s.sd, t.stkEntry i = s.stkEntry i)
      ∧ t.mcu.pc = nn ∧ StkFrame [] s t := by
  obtain ⟨t, he, hstk, hpc, hframe⟩ := exec_call_of_room hroom nn
  exact ⟨t, s.pcPlus 3, he, sd_of_stk_cons hstk, stkEntry_top hstk, s.pcPlus_toNat 3, fun _ => stkEntry_below hstk,
    hpc, hframe⟩

theorem ret_faults_of_sd_eq_zero {s : State} (hempty : s.sd = 0) :
    ∃ t, exec .ret s = .next t ∧ FaultEntry .stackUnderflow s t := by
  rcases s.returnTop_cases with ⟨-, he⟩ | ⟨top, rest, hstk, -⟩
  · exact ⟨_, congrArg Host.Outcome.next he, rfl⟩
  · exact absurd hempty ((sd_of_stk_cons hstk).trans_ne (Nat.succ_ne_zero _))

/-- `RET` as an equation between stacks (R214). -/
theorem exec_ret_of_sd_ne_zero {s : State} (hne : s.sd ≠ 0) :
    ∃ t, exec .ret s = .next t ∧ s.mcu.stk = t.mcu.pc :: t.mcu.stk ∧ StkFrame [] s t := by
  rcases s.returnTop_cases with ⟨hempty, -⟩ | ⟨top, rest, hstk, he⟩
  · exact absurd (sd_of_stk_nil hempty) hne
  · exact ⟨_, congrArg Host.Outcome.next he, hstk, stkFrame_setStk_setPc s rest top⟩

theorem ret_pops_of_sd_ne_zero {s : State} (hne : s.sd ≠ 0) :
    ∃ t, exec .ret s = .next t ∧ t.sd + 1 = s.sd ∧ s.stkEntry t.sd = some t.mcu.pc
      ∧ (∀ i < t.sd, t.stkEntry i = s.stkEntry i) ∧ StkFrame [] s t := by
  obtain ⟨t, he, hstk, hframe⟩ := exec_ret_of_sd_ne_zero hne
  exact ⟨t, he, (sd_of_stk_cons hstk).symm, stkEntry_top hstk, fun _ hi => (stkEntry_below hstk hi).symm, hframe⟩

/-! ### The obligations -/

/-- Settles O27: `CALL` by its overflow check, `CALL cc` by its condition. -/
theorem calls : Obligations.Calls := by
  intro s cc nn
  rw [exec_callCc]
  refine ⟨(call_faults_of_full · nn), (call_pushes_of_room · nn), fun hc hfull => ?_, fun hc hroom => ?_, fun hc => ?_⟩
  · rw [if_pos hc]
    exact call_faults_of_full hfull nn
  · rw [if_pos hc]
    exact call_pushes_of_room hroom nn
  · rw [if_neg (ne_true_of_eq_false hc)]
    exact ⟨_, rfl, advance_effect s 3⟩

/-- Settles O28: `RET` by its underflow check, `RET cc` by its condition. -/
theorem returns : Obligations.Returns := by
  intro s cc
  rw [exec_retCc]
  refine ⟨ret_faults_of_sd_eq_zero, ret_pops_of_sd_ne_zero, fun hc hempty => ?_, fun hc hne => ?_, fun hc => ?_⟩
  · rw [if_pos hc]
    exact ret_faults_of_sd_eq_zero hempty
  · rw [if_pos hc]
    exact ret_pops_of_sd_ne_zero hne
  · rw [if_neg (ne_true_of_eq_false hc)]
    exact ⟨_, rfl, advance_effect s 1⟩

/-- Settles O26: `JP cc` is `JP` when its condition holds, and `pc` moved on when not. -/
theorem jumps : Obligations.Jumps := by
  intro s cc nn
  rw [exec_jpCc]
  refine ⟨⟨_, rfl, rfl, regFrame_setPc s nn, rfl, fun _ => rfl⟩, ?_⟩
  cases condHolds cc s.mcu.flags with
  | true => exact ⟨_, rfl, rfl, regFrame_setPc s nn, rfl, fun _ => rfl⟩
  | false => exact ⟨_, rfl, pcMoved_advance rfl 3, regFrame_setPc s (s.pcPlus 3), rfl, fun _ => rfl⟩

/-- Settles O29: each is one write of the MCU's state, `ERR` the write that every fault makes. -/
theorem systemInstructions : Obligations.SystemInstructions := fun s =>
  ⟨⟨_, rfl, pcMoved_advance rfl 1, rfl⟩, ⟨s.setRun .halted, rfl, rfl⟩, ⟨s.raise .softwareError, rfl, rfl⟩⟩

end Sys2Proof.Machine

/-! PROOF. The MCU's faults: which one an instruction can raise, what a fault writes, and the checks of the fetch in
their order (rules R231 to R235, R251, R272). -/

namespace Sys2Proof.Machine

/-! ### A step, by the head of the inbox -/

theorem step_of_inbox_nil {s : State} (hbox : s.inbox = []) : step s = mcuMove s := by
  simp only [step, nextMove, hbox]

theorem step_of_inbox_cons {s : State} {m : Move} {rest : List Move} (hbox : s.inbox = m :: rest) :
    step s = makeMove m { s with inbox := rest } := by
  simp only [step, nextMove, hbox]

theorem mcuMove_of_not_running {s : State} (hrun : s.mcu.run ≠ .running) : mcuMove s = .next s :=
  (mcuMove_cases s).elim (·.2) fun h => absurd h.1 hrun

/-- Settles O36: a step that is the MCU's turn is its move, on the state with the turn taken out. -/
theorem onlyRunningSteps : Obligations.OnlyRunningSteps := fun _ hrun =>
  ⟨mcuMove_of_not_running hrun, fun hbox => (step_of_inbox_nil hbox).trans (mcuMove_of_not_running hrun),
    fun _ hbox => (step_of_inbox_cons hbox).trans (mcuMove_of_not_running hrun)⟩

/-! ### A fault writes `FAULT`, `FPC` and `STATE` -/

theorem faultEntry_raise (s : State) (k : McuFault) : FaultEntry k s (s.raise k) := rfl

/-- The one way in which an instruction of the running MCU ends in FAULTED. -/
theorem McuEnds.faultEntry {i : Instr} {s t : State} (h : McuEnds i s t) (hrun : s.mcu.run = .running)
    (ht : t.mcu.run = .faulted) : ∃ k, FaultEntry k s t := by
  cases h with
  | completes h =>
    obtain ⟨hsame, -, -⟩ := h.runRegs
    exact RunState.noConfusion (hrun.symm.trans (hsame.symm.trans ht))
  | halts _ hk => exact RunState.noConfusion ((congrArg (·.mcu.run) hk).symm.trans ht)
  | faults k hk => exact ⟨k, hk⟩

/-- Settles O35: the fault is the fetch's, or the one way in which an MCU instruction ends in FAULTED. -/
theorem mcuFaultsArePrecise : Obligations.McuFaultsArePrecise := by
  intro s t hrun h ht
  rcases mcuMove_cases s with ⟨hne, -⟩ | ⟨-, ⟨i, -, he⟩ | ⟨k, -, he⟩ | ⟨a, -, he⟩⟩
  · exact absurd hrun hne
  · rw [he] at h
    cases hi : i.isBse with
    | true =>
      obtain ⟨-, -, hmcu, -⟩ := (exec_bseOnly hi s t h).1
      exact RunState.noConfusion (hrun.symm.trans ((congrArg Mcu.run hmcu).symm.trans ht))
    | false => exact (exec_mcuEnds (congrArg not hi) h).faultEntry hrun ht
  · cases he.symm.trans h
    exact ⟨k, faultEntry_raise s k⟩
  · cases he.symm.trans h

/-! ### The checks of the fetch -/

theorem State.fetchByte_of_le {s : State} {a : Word} (h : s.params.progSize ≤ a.toNat) :
    s.fetchByte a = .outOfRange :=
  if_pos h

theorem State.fetchByte_of_find {s : State} {a : Word} {v : Byte} (hlt : a.toNat < s.params.progSize)
    (hfind : Memory.find a.toNat s.prog = some v) : s.fetchByte a = .byte v := by
  rw [State.fetchByte, if_neg (Nat.not_le.mpr hlt), hfind]

theorem State.fetchByte_of_find_none {s : State} {a : Word} (hlt : a.toNat < s.params.progSize)
    (hfind : Memory.find a.toNat s.prog = none) : s.fetchByte a = .unloaded := by
  rw [State.fetchByte, if_neg (Nat.not_le.mpr hlt), hfind]

/-- Settles O38: the first byte is fetched before anything else is looked at. -/
theorem unloadedByteStops : Obligations.UnloadedByteStops := by
  intro s hrun hlt hfind
  simp only [mcuMove, hrun, mcuCycle, State.fetchInstr, State.fetchByte_of_find_none hlt hfind]

theorem State.fetchBytes_succ_of_outOfRange {s : State} {a : Word} (h : s.fetchByte a = .outOfRange) (n : Nat) :
    s.fetchBytes (n + 1) a = .outOfRange := by
  simp only [State.fetchBytes, h]

theorem State.fetchBytes_succ_of_byte {s : State} {a : Word} {v : Byte} (h : s.fetchByte a = .byte v) {n : Nat}
    (hrest : s.fetchBytes n (a + 1#16) = .outOfRange) : s.fetchBytes (n + 1) a = .outOfRange := by
  simp only [State.fetchBytes, h, hrest]

theorem State.fetchBytes_one {s : State} {a : Word} {v : Byte} (h : s.fetchByte a = .byte v) :
    s.fetchBytes 1 a = .bytes [v] := by
  simp only [State.fetchBytes, h]

/-- Byte 0 is there and legal, so the bytes after it are fetched. -/
theorem State.fetchInstr_of_mcuLength {s : State} {b0 : Byte} {len : Nat} (hb0 : s.fetchByte s.mcu.pc = .byte b0)
    (hlen : mcuLength b0 = some len) : s.fetchInstr = s.fetchRest b0 len := by
  simp only [State.fetchInstr, hb0, hlen]

theorem State.fetchRest_of_outOfRange {s : State} {b0 : Byte} {len : Nat}
    (h : s.fetchBytes (len - 1) (s.mcu.pc + 1#16) = .outOfRange) : s.fetchRest b0 len = .fault .fetchOutOfRange := by
  simp only [State.fetchRest, h]

theorem mcuMove_of_fetchFault {s : State} {k : McuFault} (hrun : s.mcu.run = .running)
    (hf : s.fetchInstr = .fault k) : ∃ t, mcuMove s = .next t ∧ FaultEntry k s t :=
  ⟨s.raise k, by simp only [mcuMove, hrun, mcuCycle, hf], faultEntry_raise s k⟩

/-! ### The illegal sub-bytes -/

/-- A field of a byte in terms of numbers (rule R6). -/
theorem field_toNat (b : Byte) (lo len : Nat) : (field b lo len).toNat = b.toNat / 2 ^ lo % 2 ^ len := by
  rw [field, BitVec.extractLsb'_toNat, Nat.shiftRight_eq_div_pow]

/-- A byte that is too large has not the top field `o`. -/
theorem field_ne_of_le {b : Byte} {lo len : Nat} {o : BitVec len} (hb : b.toNat < 2 ^ lo * 2 ^ len)
    (h : (o.toNat + 1) * 2 ^ lo ≤ b.toNat) : field b lo len ≠ o := by
  have hq : o.toNat + 1 ≤ b.toNat / 2 ^ lo := (Nat.le_div_iff_mul_le (Nat.two_pow_pos lo)).mpr h
  have hlt : b.toNat / 2 ^ lo < 2 ^ len := Nat.div_lt_of_lt_mul hb
  intro he
  rw [← he, field_toNat, Nat.mod_eq_of_lt hlt] at hq
  exact Nat.not_succ_le_self _ hq

/-- The sub-bytes of rule R231 are those that the row of byte 0 rejects. -/
theorem opcodeRow_of_illegalSub {b0 b1 : Byte} (h : illegalSub b0 b1) :
    ∃ f, opcodeRow b0 = .two f ∧ f b1 = none := by
  have hlt := b1.isLt
  rcases h with ⟨rfl, h⟩ | ⟨rfl, h⟩ | ⟨rfl | rfl, h⟩
  · refine ⟨subBitRes, rfl, ?_⟩
    rw [subBitRes, if_neg (field_ne_of_le hlt (Nat.le_trans (by decide) h)), if_neg (field_ne_of_le hlt h)]
  · exact ⟨subXchb, rfl, if_neg (field_ne_of_le hlt h)⟩
  · exact ⟨subLdRMem, rfl, if_neg (field_ne_of_le hlt h)⟩
  · exact ⟨subLdMemR, rfl, if_neg (field_ne_of_le hlt h)⟩

theorem State.fetchInstr_of_illegalSub {s : State} {b0 b1 : Byte} (hb0 : s.fetchByte s.mcu.pc = .byte b0)
    (hb1 : s.fetchByte (s.mcu.pc + 1#16) = .byte b1) (h : illegalSub b0 b1) :
    s.fetchInstr = .fault .illegalInstruction := by
  obtain ⟨f, hrow, hf⟩ := opcodeRow_of_illegalSub h
  have hlen : mcuLength b0 = some 2 := by simp only [mcuLength, hrow]
  have hbytes : s.fetchBytes (2 - 1) (s.mcu.pc + 1#16) = .bytes [b1] := State.fetchBytes_one hb1
  have hdec : decodeMcu [b0, b1] = .reject (.illegalSubByte b0 b1) := by simp only [decodeMcu, hrow, hf]
  rw [State.fetchInstr_of_mcuLength hb0 hlen]
  simp only [State.fetchRest, hbytes, decodeFetched, hdec]

/-- Settles O37: each check by the part of the fetch that makes it. -/
theorem fetchChecksInOrder : Obligations.FetchChecksInOrder := by
  intro s hrun
  refine ⟨fun hle => mcuMove_of_fetchFault hrun ?_, fun b0 hlt hfind => ?_⟩
  · simp only [State.fetchInstr, State.fetchByte_of_le hle]
  have hb0 := State.fetchByte_of_find hlt hfind
  refine ⟨fun hillegal => mcuMove_of_fetchFault hrun ?_, fun len hlen h2 hle => mcuMove_of_fetchFault hrun ?_,
    fun b1 hlt1 hfind1 => ?_⟩
  · have hnone : mcuLength b0 = none := (tenIllegalFirstBytes b0).mpr hillegal
    simp only [State.fetchInstr, hb0, hnone]
  · obtain ⟨n, rfl⟩ := Nat.exists_eq_add_of_le' h2
    rw [State.fetchInstr_of_mcuLength hb0 hlen]
    exact State.fetchRest_of_outOfRange (State.fetchBytes_succ_of_outOfRange (State.fetchByte_of_le hle) n)
  · have hb1 := State.fetchByte_of_find hlt1 hfind1
    refine ⟨fun hlen hle => mcuMove_of_fetchFault hrun ?_,
      fun hsub => mcuMove_of_fetchFault hrun (State.fetchInstr_of_illegalSub hb0 hb1 hsub)⟩
    have hnext : s.mcu.pc + 1#16 + 1#16 = s.mcu.pc + 2#16 := BitVec.add_assoc _ _ _
    have hb2 : s.fetchByte (s.mcu.pc + 1#16 + 1#16) = .outOfRange := State.fetchByte_of_le (hnext ▸ hle)
    rw [State.fetchInstr_of_mcuLength hb0 hlen]
    exact State.fetchRest_of_outOfRange
      (State.fetchBytes_succ_of_byte hb1 (State.fetchBytes_succ_of_outOfRange hb2 0))

/-! ### The faults that execution can raise -/

/-- `FAULT` after an instruction: as before, or a code that execution raises, 3, 4 or 5 (rule R231). -/
abbrev ExecFault (old new : Option McuFault) : Prop :=
  new = old ∨ new = some .stackOverflow ∨ new = some .stackUnderflow ∨ new = some .softwareError

/-- The action completes, and leaves `FAULT` as execution can leave it. -/
def RaisesExecFault (f : State → Result) : Prop :=
  ∀ s, ∃ t, f s = .next t ∧ ExecFault s.mcu.fault t.mcu.fault

theorem callTo_raisesExecFault (nn : Word) : RaisesExecFault fun s => .next (s.callTo nn) := by
  intro s
  refine ⟨_, rfl, ?_⟩
  rcases s.callTo_cases nn with ⟨-, he⟩ | ⟨-, he⟩ <;> rw [he]
  · exact .inr (.inl rfl)
  · exact .inl rfl

theorem returnTop_raisesExecFault : RaisesExecFault fun s => .next s.returnTop := by
  intro s
  refine ⟨_, rfl, ?_⟩
  rcases s.returnTop_cases with ⟨-, he⟩ | ⟨top, rest, -, he⟩ <;> rw [he]
  · exact .inr (.inr (.inl rfl))
  · exact .inl rfl

/-- A transfer on a condition raises what the transfer itself raises. -/
theorem raisesExecFault_onCond {f : State → Result} (hf : RaisesExecFault f) (cc : Cond) (n : Nat) :
    RaisesExecFault fun s => if condHolds cc s.mcu.flags then f s else .next (s.advance n) := by
  intro s
  cases hc : condHolds cc s.mcu.flags with
  | true => simpa only [hc, if_true] using hf s
  | false => exact ⟨s.advance n, by simp only [hc, Bool.false_eq_true, if_false], .inl rfl⟩

theorem bseUnlessFaulted_raisesExecFault {act : State → State} (hact : ∀ s, (act s).mcu = s.mcu) :
    RaisesExecFault fun s => s.bseUnlessFaulted (act s) := by
  intro s
  rcases s.bseUnlessFaulted_cases (act s) with ⟨-, he⟩ | ⟨-, he⟩
  · exact ⟨s, he, .inl rfl⟩
  · exact ⟨act s, he, .inl (congrArg Mcu.fault (hact s))⟩

/-- Every instruction completes, and those with a check or `ERR` are all that raise a fault. -/
theorem exec_raisesExecFault (i : Instr) : RaisesExecFault (exec i) := by
  cases i with
  | nop | halt | jp | bit | res | xchb | ldRN | ldWNN | ldRMem | ldMemR | inc | dec | ldRR | rl | rr | shl | shr
  | incw | decw | addw | adcw | sbcw | xchw | bci | bcd | bsinit => exact fun _ => ⟨_, rfl, .inl rfl⟩
  | err => exact fun _ => ⟨_, rfl, .inr (.inr (.inr rfl))⟩
  | jpCc cc nn =>
    intro s
    rw [exec_jpCc]
    exact raisesExecFault_onCond (f := exec (.jp nn)) (fun _ => ⟨_, rfl, .inl rfl⟩) cc 3 s
  | call nn => exact callTo_raisesExecFault nn
  | callCc cc nn =>
    intro s
    rw [exec_callCc]
    exact raisesExecFault_onCond (callTo_raisesExecFault nn) cc 3 s
  | ret => exact returnTop_raisesExecFault
  | retCc cc =>
    intro s
    rw [exec_retCc]
    exact raisesExecFault_onCond returnTop_raisesExecFault cc 1 s
  | push wp =>
    intro s
    rcases execPush_cases wp s with ⟨-, he⟩ | ⟨-, he⟩
    · exact ⟨_, he, .inr (.inl rfl)⟩
    · exact ⟨_, he, .inl rfl⟩
  | pop wp =>
    intro s
    rcases execPop_cases wp s with ⟨-, he⟩ | ⟨top, rest, -, he⟩
    · exact ⟨_, he, .inr (.inr (.inl rfl))⟩
    · exact ⟨_, he, .inl rfl⟩
  | xts wp =>
    intro s
    rcases execXts_cases wp s with ⟨-, he⟩ | ⟨top, rest, -, he⟩
    · exact ⟨_, he, .inr (.inr (.inl rfl))⟩
    · exact ⟨_, he, .inl rfl⟩
  | bcir => exact fun s => ⟨_, rfl, .inl (congrArg (·.mcu.fault) (s.bcRepeat_frame bcUp bcFuel))⟩
  | bcdr => exact fun s => ⟨_, rfl, .inl (congrArg (·.mcu.fault) (s.bcRepeat_frame bcDown bcFuel))⟩
  | putbit b => exact bseUnlessFaulted_raisesExecFault fun s => by split <;> rfl
  | putbits n v => exact bseUnlessFaulted_raisesExecFault fun s => by split_ifs <;> rfl
  | putbyte v => exact bseUnlessFaulted_raisesExecFault fun s => by split <;> rfl
  | flush => exact bseUnlessFaulted_raisesExecFault fun _ => rfl

/-! ### A full program store -/

/-- The first bytes of those that stand from `a` on. -/
theorem State.Holds.of_append {s : State} {a : Word} {pre rest : List Byte} (h : s.Holds a (pre ++ rest)) :
    s.Holds a pre := by
  intro k hk
  obtain ⟨hlt, hfind⟩ := h k (by rw [List.length_append]; omega)
  rw [List.getElem_append_left hk] at hfind
  exact ⟨hlt, hfind⟩

/-- With 65536 bytes loaded, the three bytes from any address on can be fetched (rule R26). -/
theorem State.holds_of_full {s : State} {f : Word → Byte} (hsize : s.params.progSize = 65536)
    (hfull : ∀ a : Word, Memory.find a.toNat s.prog = some (f a)) (a : Word) :
    s.Holds a [f a, f (a + 1#16), f (a + 2#16)] := by
  intro k hk
  refine ⟨hsize ▸ BitVec.isLt _, (hfull _).trans (congrArg some ?_)⟩
  match k, hk with
  | 0, _ => exact congrArg f (BitVec.add_zero a)
  | 1, _ => rfl
  | 2, _ => rfl

/-- The bytes of the instruction are the first of those that decode to it. -/
theorem State.fetchInstr_of_holds_decodeMcu {s : State} {bs rest : List Byte} {i : Instr} (h : s.Holds s.mcu.pc bs)
    (hdec : decodeMcu bs = .instr i rest) : s.fetchInstr = .instr i := by
  obtain ⟨pre, hpre, rfl⟩ := encode_of_decodeMcu hdec
  have hround := decode_encode i
  rw [hpre] at hround
  exact State.fetchInstr_of_holds h.of_append hround

/-- Settles O39: the fetch answers an instruction, and execution raises codes 3, 4 and 5 alone. -/
theorem fullProgramFaults : Obligations.FullProgramFaults := by
  intro s f hrun hnone hsize hfull hlegal
  obtain ⟨i, rest, hdec⟩ := hlegal s.mcu.pc
  have hfetch := State.fetchInstr_of_holds_decodeMcu (State.holds_of_full hsize hfull s.mcu.pc) hdec
  obtain ⟨t, ht, hfault⟩ := exec_raisesExecFault i s
  rw [hnone] at hfault
  exact ⟨t, (mcuMove_of_fetchInstr hrun hfetch).trans ht, hfault⟩

end Sys2Proof.Machine

/-! PROOF. The encoder's fault latch (rule R240), and a command word as the host's transaction (rule R263). -/

namespace Sys2Proof.Machine

theorem step_of_inbox_host {s : State} {op : HostOp} {rest : List Move} (hbox : s.inbox = .host op :: rest) :
    step s = hostMove op { s with inbox := rest } :=
  step_of_inbox_cons hbox

theorem bseCommand_of_decodeBse {w : Word} {i : Instr} {r : List Byte} (h : decodeBse w = .instr i r) (s : State) :
    bseCommand w s = exec i s := by
  simp only [bseCommand, h]

theorem bseCommand_of_reject {w : Word} {why : Reject} (h : decodeBse w = .reject why) (s : State) :
    bseCommand w s = .next (s.badCommand (cmdOp w)) := by
  simp only [bseCommand, h]

/-- Settles O45: the transaction is the command port's, and nothing is given back. -/
theorem stepRunsCommand : Obligations.StepRunsCommand := by
  intro s w rest hbox
  have hstep : step s = bseCommand w { s with inbox := rest, reply := .nothing } := step_of_inbox_host hbox
  exact ⟨hstep, fun i r hdec => hstep.trans (bseCommand_of_decodeBse hdec _)⟩

/-! ### The command words with `op` = 1 -/

theorem cmdOp_eq_one_iff (w : Word) : cmdOp w = 0x1#4 ↔ w.toNat / 4096 = 1 := by
  have hw := w.isLt
  rw [← BitVec.toNat_inj, cmdOp, BitVec.extractLsb'_toNat, Nat.shiftRight_eq_div_pow, BitVec.toNat_ofNat]
  omega

/-- `BSINIT` is the one command whose word has `op` = 1 (rule R111). -/
theorem eq_bsinit_of_cmdOp {i : Instr} {w : Word} (h : encode i = .command w) (hop : cmdOp w = 0x1#4) :
    i = .bsinit := by
  cases i with
  | bsinit => rfl
  | putbit | putbits | putbyte | flush =>
    cases h
    rw [cmdOp_cmdWord] at hop
    contradiction
  | _ => cases h

/-- The one legal word with `op` = 1 is 0x1000 (rule R112). -/
theorem decodeBse_of_cmdOp {w : Word} (hop : cmdOp w = 0x1#4) (hw : w ≠ 0x1000#16) :
    ∃ why, decodeBse w = .reject why := by
  cases hdec : decodeBse w with
  | reject why => exact ⟨why, rfl⟩
  | instr i rest =>
    obtain ⟨henc, -⟩ := encode_of_decodeBse hdec
    have hi := eq_bsinit_of_cmdOp henc hop
    subst hi
    cases henc
    exact absurd rfl hw

theorem State.badCommand_of_raises {s : State} {op : BitVec 4} (h : s.bse.bfault = none ∨ op = 0x1#4) :
    s.badCommand op = s.raiseBse .badCommand :=
  if_pos h

theorem State.badCommand_of_latched {s : State} {op : BitVec 4} (hs : s.bse.bfault ≠ none) (hop : op ≠ 0x1#4) :
    s.badCommand op = s :=
  if_neg (not_or.mpr ⟨hs, hop⟩)

/-! ### The latch -/

/-- A command that raises a fault writes `BFAULT` alone: what it sends before writes no fault. -/
theorem bseFaultEntry_of_exec {i : Instr} (hi : i.isBse = true) {s t : State} (hs : s.bse.bfault = none)
    (h : exec i s = .next t) (ht : t.bse.bfault ≠ none) : ∃ k, BseFaultEntry k s t := by
  cases i with
  | bsinit =>
    cases h
    exact absurd rfl ht
  | putbit b =>
    rcases execPutbit_cases hs b with ⟨-, -, he⟩ | ⟨-, he⟩ <;> cases he.symm.trans h
    · exact ⟨_, rfl⟩
    · exact absurd ((s.bse.putBit_bfault b).trans hs) ht
  | putbits n v =>
    rcases execPutbits_cases hs n v with ⟨-, he⟩ | ⟨-, -, -, -, he⟩ | ⟨-, -, -, he⟩ <;> cases he.symm.trans h
    · exact ⟨_, rfl⟩
    · exact ⟨_, rfl⟩
    · exact absurd ((Bse.putBits_bfault n.toNat v s.bse).trans hs) ht
  | putbyte v =>
    rcases execPutbyte_cases hs v with ⟨-, he⟩ | ⟨-, he⟩ <;> cases he.symm.trans h
    · exact ⟨_, rfl⟩
    · exact absurd hs ht
  | flush =>
    cases (execFlush_none hs).symm.trans h
    exact absurd (s.bse.flush_bfault.trans hs) ht
  | _ => cases hi

/-- While a fault is set, a word with another `op` than 1 is no `BSINIT`, and is ignored whether legal or not. -/
theorem bseCommand_of_latched {s : State} {w : Word} (hs : s.bse.bfault ≠ none) (hop : cmdOp w ≠ 0x1#4) :
    bseCommand w s = .next s := by
  rcases bseCommand_cases w s with ⟨i, rest, hdec, he⟩ | ⟨why, -, he⟩ <;> rw [he]
  · have hinit : i ≠ .bsinit := by
      rintro rfl
      cases (encode_of_decodeBse hdec).1
      exact hop rfl
    exact exec_bse_latched (decodeBse_isBse hdec) hinit hs
  · rw [State.badCommand_of_latched hs hop]

/-- Settles O53: the latch, and the words with `op` = 1, which it lets through. -/
theorem encoderFaultLatch : Obligations.EncoderFaultLatch := by
  refine ⟨fun _ _ _ hi hs => bseFaultEntry_of_exec hi hs, fun s w hs hop => ?_, fun s => ?_, fun s w hop hw => ?_⟩
  · exact bseCommand_of_latched hs (mt (cmdOp_eq_one_iff w).mp hop)
  · exact ⟨_, bseCommand_of_decodeBse (i := .bsinit) rfl s, sameOutsideBse_setBse s s.bse.init, rfl⟩
  · have hop1 := (cmdOp_eq_one_iff w).mpr hop
    obtain ⟨why, hdec⟩ := decodeBse_of_cmdOp hop1 hw
    refine ⟨_, bseCommand_of_reject hdec s, ?_⟩
    rw [State.badCommand_of_raises (.inr hop1)]
    rfl

end Sys2Proof.Machine

/-! PROOF. The host's transactions: refused, writes and reads (rules R40 to R45, R137, R263, R267).

Each transaction is made on the state with its move taken out of the inbox, and asks whether it is allowed; what it
then writes or answers is a fact about the state's fields. -/

namespace Sys2Proof.Machine

/-! ### Allowed or refused -/

theorem State.whenStopped_of_ne {s : State} (hrun : s.mcu.run ≠ .stopped) (t : Option State) :
    s.whenStopped t = s.answer .refused :=
  (s.whenStopped_cases t).elim (fun ⟨_, hs, _⟩ => absurd hs hrun) id

theorem State.whenStopped_none (s : State) : s.whenStopped none = s.answer .refused :=
  (s.whenStopped_cases none).elim (fun ⟨_, _, hn, _⟩ => nomatch hn) id

theorem State.whenStopped_some {s : State} (hrun : s.mcu.run = .stopped) (t : State) :
    s.whenStopped (some t) = t.answer .nothing := by
  simp only [State.whenStopped, hrun]

theorem State.readUnlessRunning_of_running {s : State} (hrun : s.mcu.run = .running) (v : Option Nat) :
    s.readUnlessRunning v = s.answer .refused :=
  (s.readUnlessRunning_cases v).elim (·.2) fun h => absurd hrun h.1

theorem State.readUnlessRunning_of_ne {s : State} (hrun : s.mcu.run ≠ .running) (v : Option Nat) :
    s.readUnlessRunning v = s.answer (replyOf v) :=
  (s.readUnlessRunning_cases v).elim (fun h => absurd h.1 hrun) (·.2)

theorem State.readUnlessRunning_none (s : State) : s.readUnlessRunning none = s.answer .refused :=
  (s.readUnlessRunning_cases none).elim (·.2) (·.2)

theorem State.stkEntry_of_sd_le {s : State} {i : Nat} (h : s.sd ≤ i) : s.stkEntry i = none :=
  List.getElem?_eq_none (List.length_reverse.trans_le h)

theorem State.hostLoadProg_of_le {s : State} {a : Nat} (h : s.params.progSize ≤ a) (v : Byte) :
    s.hostLoadProg a v = s.answer .refused := by
  rw [State.hostLoadProg, if_neg (Nat.not_lt.mpr h), State.whenStopped_none]

theorem State.hostReadStk_of_le {s : State} {i : Nat} (h : s.sd ≤ i) : s.hostReadStk i = s.answer .refused := by
  rw [State.hostReadStk, State.stkEntry_of_sd_le h, Option.map_none, State.readUnlessRunning_none]

/-- The refusals that R263 names for a run state or an operand; a register that no row lists is left out (log 9). -/
abbrev HostRefuses (op : HostOp) (s : State) : Prop :=
  (s.mcu.run ≠ .stopped ∧
      ((∃ a v, op = .loadProg a v) ∨ (∃ a v, op = .writeRam a v) ∨ (∃ m v, op = .writeReg m v) ∨ op = .start))
    ∨ (s.mcu.run = .running ∧ ((∃ m, op = .readReg m) ∨ (∃ a, op = .readRam a) ∨ ∃ i, op = .readStk i))
    ∨ (∃ a v, op = .loadProg a v ∧ s.params.progSize ≤ a)
    ∨ (∃ i, op = .readStk i ∧ s.sd ≤ i)
    ∨ (∃ i, op = .bseOut i ∧ s.bse.wp ≤ i)

/-- Refused for the run state, by the check that its kind of transaction makes, or for the operand. -/
theorem hostMove_of_refuses {op : HostOp} {s : State} (h : HostRefuses op s) :
    hostMove op s = .next (s.answer .refused) := by
  rcases h with ⟨hrun, hop⟩ | ⟨hrun, hop⟩ | ⟨a, v, rfl, ha⟩ | ⟨i, rfl, hi⟩ | ⟨i, rfl, hi⟩
  · rcases hop with ⟨a, v, rfl⟩ | ⟨a, v, rfl⟩ | ⟨m, v, rfl⟩ | rfl <;>
      exact congrArg _ (State.whenStopped_of_ne hrun _)
  · rcases hop with ⟨m, rfl⟩ | ⟨a, rfl⟩ | ⟨i, rfl⟩ <;>
      exact congrArg _ (State.readUnlessRunning_of_running hrun _)
  · exact congrArg _ (State.hostLoadProg_of_le ha v)
  · exact congrArg _ (State.hostReadStk_of_le hi)
  · exact congrArg _ (if_pos hi)

/-- Settles O58: whether a transaction is refused does not depend on the inbox. -/
theorem refusedTransactionsChangeNothing : Obligations.RefusedTransactionsChangeNothing := fun _ _ _ hbox h =>
  (step_of_inbox_host hbox).trans (hostMove_of_refuses h)

/-! ### Writes -/

theorem lowByte_setWidth (v : Byte) : lowByte (v.setWidth 16) = v := by
  have hv := v.isLt
  apply BitVec.eq_of_toNat_eq
  rw [lowByte_toNat, BitVec.toNat_setWidth]
  omega

theorem getLsbD_lowByte (w : Word) {i : Nat} (hi : i < 8) : (lowByte w).getLsbD i = w.getLsbD i := by
  rw [lowByte, BitVec.getLsbD_extractLsb', decide_eq_true hi, Bool.true_and, Nat.zero_add]

theorem unpack_lowByte (w : Word) :
    Flags.unpack (lowByte w) = ⟨w.getLsbD 0, w.getLsbD 1, w.getLsbD 2, w.getLsbD 3⟩ := by
  simp only [Flags.unpack, getLsbD_lowByte, Nat.reduceLT]

/-- M8 to M15 are the general registers (rule R43). -/
theorem State.hostWriteReg_gpr (s : State) (r : Reg) (v : Word) :
    s.hostWriteReg (8 + r.num.toNat) v = some (s.writeReg r (lowByte v)) := by
  cases r <;> rfl

section
variable {s t : State} {a m : Nat} {v : Byte} {w : Word} {r : Reg}

theorem hostMove_writeRam (hrun : s.mcu.run = .stopped) :
    hostMove (.writeRam w v) s = .next ((s.writeRam w v).answer .nothing) :=
  congrArg _ (State.whenStopped_some hrun _)

theorem hostMove_loadProg (hrun : s.mcu.run = .stopped) (ha : a < s.params.progSize) :
    hostMove (.loadProg a v) s = .next (({ s with prog := Memory.put a v s.prog } : State).answer .nothing) := by
  rw [hostMove, State.hostLoadProg, if_pos ha, State.whenStopped_some hrun]

theorem hostMove_start (hrun : s.mcu.run = .stopped) :
    hostMove .start s = .next ((s.setRun .running).answer .nothing) :=
  congrArg _ (State.whenStopped_some hrun _)

theorem hostMove_writeReg (hrun : s.mcu.run = .stopped) (ht : s.hostWriteReg m w = some t) :
    hostMove (.writeReg m w) s = .next (t.answer .nothing) := by
  rw [hostMove, State.hostSetReg, ht, State.whenStopped_some hrun]

theorem hostMove_writeReg_pc (hrun : s.mcu.run = .stopped) :
    hostMove (.writeReg 3 w) s = .next ((s.setPc w).answer .nothing) :=
  hostMove_writeReg hrun rfl

/-- Bits 0 to 3 of the value (rule R43, log 8). -/
theorem hostMove_writeReg_flags (hrun : s.mcu.run = .stopped) :
    hostMove (.writeReg 5 w) s
      = .next ((s.setFlags ⟨w.getLsbD 0, w.getLsbD 1, w.getLsbD 2, w.getLsbD 3⟩).answer .nothing) :=
  unpack_lowByte w ▸ hostMove_writeReg hrun rfl

theorem hostMove_writeReg_gpr (hrun : s.mcu.run = .stopped) :
    hostMove (.writeReg (8 + r.num.toNat) (v.setWidth 16)) s = .next ((s.writeReg r v).answer .nothing) := by
  rw [hostMove_writeReg hrun (s.hostWriteReg_gpr r _), lowByte_setWidth]

end

/-- Settles O59: each write is one update of the state, and the transaction adds the reply alone. -/
theorem hostWritesWhenStopped : Obligations.HostWritesWhenStopped := by
  intro s rest hrun
  refine ⟨fun a v hbox => ?_, fun a v hbox ha => ?_, fun v hbox => ?_, fun v hbox => ?_, fun r v hbox => ?_,
    fun hbox => ?_⟩ <;> rw [step_of_inbox_host hbox]
  · exact ⟨_, hostMove_writeRam hrun, Memory.read_write_same _ a v, sameRamBut_writeRam s a v, rfl⟩
  · exact ⟨_, hostMove_loadProg hrun ha, fun b => Memory.find_put a b v s.prog, rfl⟩
  · exact hostMove_writeReg_pc hrun
  · exact hostMove_writeReg_flags hrun
  · exact ⟨_, hostMove_writeReg_gpr hrun, RegFile.get_set_same _ r v, sameRegsBut_writeReg s r v, rfl⟩
  · exact hostMove_start hrun

/-! ### Reads -/

theorem RunState.code_toNat_iff (r : RunState) :
    (r.code.toNat = 0 ↔ r = .stopped) ∧ (r.code.toNat = 1 ↔ r = .running) ∧ (r.code.toNat = 2 ↔ r = .halted)
      ∧ (r.code.toNat = 3 ↔ r = .faulted) := by
  cases r <;> decide

/-- The codes of rule R231. -/
theorem faultCode_of_mem : ∀ p ∈ [(none, 0), (some .illegalInstruction, 1), (some .fetchOutOfRange, 2),
    (some .stackOverflow, 3), (some .stackUnderflow, 4), (some .softwareError, 5)], (faultCode p.1).toNat = p.2 := by
  decide

/-- The codes of rule R239. -/
theorem bfaultCode_of_mem :
    ∀ p ∈ [(none, 0), (some .badCommand, 1), (some .outputFull, 2)], (bfaultCode p.1).toNat = p.2 := by
  decide

theorem Flags.pack_toNat (f : Flags) :
    f.pack.toNat = f.c.toNat + 2 * f.z.toNat + 4 * f.s.toNat + 8 * f.pv.toNat := by
  simp only [Flags.pack, append_toNat, BitVec.toNat_ofBool, BitVec.toNat_ofNat]
  omega

theorem State.hostReadReg_gpr (s : State) (r : Reg) :
    s.hostReadReg (8 + r.num.toNat) = some (s.readReg r).toNat := by
  cases r <;> rfl

theorem State.hostReadReg_of_mem (s : State) :
    ∀ p ∈ [(2, s.mcu.fpc.toNat), (3, s.mcu.pc.toNat), (4, s.sd)], s.hostReadReg p.1 = some p.2 := by
  simp only [List.forall_mem_cons]
  exact ⟨rfl, rfl, rfl, nofun⟩

theorem State.bseReadReg_of_mem (s : State) :
    ∀ p ∈ [(1, s.bse.cnt.toNat), (2, s.bse.acc.toNat), (3, s.bse.slot), (4, s.bse.wp)],
      s.bseReadReg p.1 = some p.2 := by
  simp only [List.forall_mem_cons]
  exact ⟨rfl, rfl, rfl, rfl, nofun⟩

section
variable {s : State} {b i m n : Nat} {a v : Word}

theorem hostMove_readReg (hrun : s.mcu.run ≠ .running) (hn : s.hostReadReg m = some n) :
    hostMove (.readReg m) s = .next (s.answer (.value n)) := by
  rw [hostMove, State.hostGetReg, hn, State.readUnlessRunning_of_ne hrun, replyOf]

theorem hostMove_readRam (hrun : s.mcu.run ≠ .running) :
    hostMove (.readRam a) s = .next (s.answer (.value (s.readRam a).toNat)) :=
  congrArg _ (State.readUnlessRunning_of_ne hrun _)

theorem hostMove_readStk (hrun : s.mcu.run ≠ .running) (hv : s.stkEntry i = some v) :
    hostMove (.readStk i) s = .next (s.answer (.value v.toNat)) := by
  rw [hostMove, State.hostReadStk, hv, Option.map_some, State.readUnlessRunning_of_ne hrun, replyOf]

theorem hostMove_bseRead (hn : s.bseReadReg b = some n) :
    hostMove (.bseRead b) s = .next (s.answer (.value n)) := by
  rw [hostMove, State.hostBseRead, hn, replyOf]

theorem hostMove_bseOut_of_written {v : Byte} (hi : i < s.bse.wp)
    (hp : ¬(s.bse.cnt ≠ 0#3 ∧ i = s.bse.slot)) (hv : s.bse.outAt i = some v) :
    hostMove (.bseOut i) s = .next (s.answer (.value v.toNat)) := by
  rw [hostMove, State.hostBseOut, if_neg (Nat.not_le.mpr hi), if_neg (mt Bse.pendingAt_iff.mp hp), hv]

theorem hostMove_bseOut_of_pending (hi : i < s.bse.wp) (hc : s.bse.cnt ≠ 0#3) (hslot : i = s.bse.slot) :
    hostMove (.bseOut i) s = .next s.unspecifiedRead := by
  rw [hostMove, State.hostBseOut, if_neg (Nat.not_le.mpr hi), if_pos (Bse.pendingAt_iff.mpr ⟨hc, hslot⟩)]

end

/-- Settles O60: each read by the piece of state it names. -/
theorem hostReadsHaveNoEffect : Obligations.HostReadsHaveNoEffect := by
  intro s rest
  refine ⟨fun hbox => ?_, fun r hbox hrun => ?_, fun hbox hrun => ?_, fun n hbox hrun hn => ?_,
    fun m n hbox hrun hn => ?_, fun n hbox hn => ?_, fun b n hbox hn => ?_, fun a hbox hrun => ?_,
    fun i v hbox hrun hv => ?_, fun i v hbox hi hp hv => ?_, fun i hbox hi hc hslot => ?_⟩ <;>
    rw [step_of_inbox_host hbox]
  · exact ⟨_, rfl, s.mcu.run.code_toNat_iff⟩
  · exact hostMove_readReg hrun (State.hostReadReg_gpr _ r)
  · rw [← Flags.pack_toNat]
    exact hostMove_readReg hrun rfl
  · exact hostMove_readReg hrun (congrArg some (faultCode_of_mem _ hn))
  · exact hostMove_readReg hrun (s.hostReadReg_of_mem _ hn)
  · exact hostMove_bseRead (congrArg some (bfaultCode_of_mem _ hn))
  · exact hostMove_bseRead (s.bseReadReg_of_mem _ hn)
  · exact hostMove_readRam hrun
  · exact hostMove_readStk hrun hv
  · exact hostMove_bseOut_of_written hi hp hv
  · exact hostMove_bseOut_of_pending hi hc hslot

end Sys2Proof.Machine
